-- ==== Sys2Proof/Word.lean ====
section
/-! DEFINITION. The words and the index types of the VD432: bytes of a frame, 16-bit frame fields, and the
numbers that name ports, modules, domains, slots and levels (00_scope.md, "Conventions"). -/

namespace Sys2Proof

/-- One byte of a frame, and a generation (0 to 255, wrapping: R3, R77). -/
abbrev Byte := BitVec 8

/-- A 16-bit frame field (00_scope.md, "Frame fields"): a claim's tag. -/
abbrev Half := BitVec 16

/-- A host port HP0 to HP3; HP0 is the control port. -/
abbrev Port := Fin 4

/-- A controlled module M0 to M31. -/
abbrev Module := Fin 32

/-- A power domain D0 to D3, and the engine E0 to E3 of that domain. -/
abbrev Domain := Fin 4

/-- A switched domain D1 to D3, numbered 0 to 2 here. -/
abbrev SwDom := Fin 3

/-- The domain number of a switched domain: `0, 1, 2` are D1, D2, D3. -/
abbrev SwDom.domain (x : SwDom) : Domain := x.succ

/-- A slot 0 to 127 of the claim table. -/
abbrev Slot := Fin 128

/-- A level 0 to 3 (claim, claimed, effective or physical level): 0 none, 1 RETAIN, 2 ONCALL, 3 ACTIVE;
levels are compared as numbers (00_scope.md, "Level comparisons"). -/
abbrev Level := Fin 4

end Sys2Proof
end

