-- ==== Sys2Proof/Syntax.lean ====
section
/-! DEFINITION. The commands of the VD432: one constructor per row of spec/opcode_table.json. A request command
(PLACE to CLEAR DOMAIN FAULT) carries no operand: its operand bytes stand in the request slot from which the intake
arbiter takes it (R155, R159, R161). A notice, posting or hand-over names the stream whose oldest element is taken
(R9, R60, R66, R74); a line event names its line. -/

namespace Sys2Proof

/-- The subject of an alert (R162): a module, or one of D1 to D3. -/
inductive Subject where
  | module (m : Module)
  | domain (x : SwDom)
  deriving DecidableEq, Repr

/-- The reason of an alert (Table 10-7). -/
inductive Reason where
  | fault
  | strayWake
  | restartDone
  | restartFailed
  | domainFault
  deriving DecidableEq, Repr

/-- The commands: what reaches one block of the part and is carried out there as one whole event. -/
inductive Instr where
  /-- FRAME_BEGIN (R152): HCS_N of port `p` falls. -/
  | frameBegin (p : Port)
  /-- FRAME_END (R153): HCS_N of port `p` rises; `bits` are the bits sampled on HSDI during the frame, in order. -/
  | frameEnd (p : Port) (bits : List Bool)
  /-- BAD_COMMAND (R158). -/
  | badCommand
  /-- PLACE (R29). -/
  | place
  /-- CHANGE (R33). -/
  | change
  /-- RENEW (R36). -/
  | renew
  /-- RELEASE (R38). -/
  | release
  /-- QUERY CLAIM (R40). -/
  | queryClaim
  /-- QUERY MODULE (R71). -/
  | queryModule
  /-- QUERY DOMAIN (R114). -/
  | queryDomain
  /-- BROWSE (R41). -/
  | browse
  /-- BROWSE NEXT (R42). -/
  | browseNext
  /-- TAKE CHANGE (R43). -/
  | takeChange
  /-- TAKE ALERT (R163). -/
  | takeAlert
  /-- SET NOTIFY (R164). -/
  | setNotify
  /-- RESTART (R128). -/
  | restart
  /-- CLEAR MODULE FAULT (R147). -/
  | clearModuleFault
  /-- DETACH (R166). -/
  | detach
  /-- SET MODULE (R168). -/
  | setModule
  /-- SET MODULE TIMING (R170). -/
  | setModuleTiming
  /-- SET DOMAIN (R171). -/
  | setDomain
  /-- SET KEEP-ON (R172). -/
  | setKeepOn
  /-- SET QUOTA (R173). -/
  | setQuota
  /-- SET TICK (R47). -/
  | setTick
  /-- EVICT (R174). -/
  | evict
  /-- RETIRE ALL (R176). -/
  | retireAll
  /-- CLEAR DOMAIN FAULT (R149). -/
  | clearDomainFault
  /-- LEVEL_NOTICE (R11): the CT takes the oldest notice of engine `e`, a level notice. -/
  | levelNotice (e : Domain)
  /-- RESTART_START_NOTICE (R12). -/
  | restartStartNotice (e : Domain)
  /-- RESTART_END_NOTICE (R13). -/
  | restartEndNotice (e : Domain)
  /-- FAULT_NOTICE_AT_CT (R14). -/
  | faultNoticeAtCt (e : Domain)
  /-- TICK (R46): the period in progress ends and the timebase issues a tick. -/
  | tick
  /-- SET_TICK_HANDOVER (R47): the timebase takes the oldest waiting divider. -/
  | setTickHandover
  /-- LEASE_COUNTDOWN (R50): the CT takes the tick. -/
  | leaseCountdown
  /-- LAPSE (R51): the CT takes the tick at which the claim in slot `sl` runs out. -/
  | lapse (sl : Slot)
  /-- CLAIMED_LEVEL_NOTICE (R59): the DR takes the oldest claimed-level notice of module `m`. -/
  | claimedLevelNotice (m : Module)
  /-- STATE_NOTICE (R60): the DR takes the oldest notice of engine `e`, a state notice. -/
  | stateNotice (e : Domain)
  /-- FAULT_NOTICE_AT_DR (R63). -/
  | faultNoticeAtDr (e : Domain)
  /-- SET_MODULE_HANDOVER_DR (R57): the DR takes the oldest SET MODULE hand-over of module `m`. -/
  | setModuleHandoverDr (m : Module)
  /-- SET_MODULE_HANDOVER_ENGINE (R74): the engines take the SET MODULE hand-over at the head of engine `e`'s stream. -/
  | setModuleHandoverEngine (e : Domain)
  /-- SET_KEEP_ON_HANDOVER (R69). -/
  | setKeepOnHandover (x : SwDom)
  /-- SET_MODULE_TIMING_HANDOVER (R78). -/
  | setModuleTimingHandover (e : Domain)
  /-- SET_DOMAIN_HANDOVER (R113). -/
  | setDomainHandover (x : SwDom)
  /-- MWAKE_RISE (R117). -/
  | mwakeRise (m : Module)
  /-- MWAKE_FALL (R119). -/
  | mwakeFall (m : Module)
  /-- IDLE_COUNT_TICK (R123): the DR takes the tick. -/
  | idleCountTick
  /-- IDLE_COUNT_RUNS_OUT (R123): the DR takes the tick at which module `m`'s idle count runs out. -/
  | idleCountRunsOut (m : Module)
  /-- TARGET_POSTING_AT_ENGINE (R80): engine `e` takes the oldest posting of the DR, a target. -/
  | targetPostingAtEngine (e : Domain)
  /-- NEED_POSTING (R100). -/
  | needPosting (x : SwDom)
  /-- RESTART_POSTING (R82). -/
  | restartPosting (e : Domain)
  /-- TAKE_ENTRY (R86): engine `e` considers its queue. -/
  | takeEntry (e : Domain)
  /-- HOLD (R92): the HOLD step in flight at engine `e` completes. -/
  | hold (e : Domain)
  /-- MRDY_RISE (R90). -/
  | mrdyRise (m : Module)
  /-- MRDY_FALL (R94). -/
  | mrdyFall (m : Module)
  /-- ACK_TIMEOUT (R95): the clock step in flight at engine `e` runs out of time. -/
  | ackTimeout (e : Domain)
  /-- SUPPLIER_FAULT_NOTICE (R141). -/
  | supplierFaultNotice (e : Domain)
  /-- SUPPLIER_CLEAR_NOTICE (R146). -/
  | supplierClearNotice (e : Domain)
  /-- MODULE_CLEAR (R148). -/
  | moduleClear (e : Domain)
  /-- DOMAIN_CLEAR (R150). -/
  | domainClear (x : SwDom)
  /-- DPG_RISE (R102). -/
  | dpgRise (x : SwDom)
  /-- DPG_FALL (R109). -/
  | dpgFall (x : SwDom)
  /-- RAMP_TIMEOUT (R102). -/
  | rampTimeout (x : SwDom)
  /-- OFF_TIMEOUT (R107). -/
  | offTimeout (x : SwDom)
  /-- LINGER_TICK (R104): engine `e` takes the tick. -/
  | lingerTick (e : Domain)
  /-- LINGER_RUNS_OUT (R104): the engine takes the tick at which domain `x`'s linger count runs out. -/
  | lingerRunsOut (x : SwDom)
  /-- DEVICE_RESET_ASSERTED (R25): RESET_N falls. -/
  | deviceResetAsserted
  /-- DEVICE_RESET_RELEASED (R177): RESET_N rises. -/
  | deviceResetReleased
  /-- ALERT_POSTING_REACHES_PORT (R162): the posting of `reason` on `subject` reaches port `p`. -/
  | alertPostingReachesPort (p : Port) (subject : Subject) (reason : Reason)
  deriving DecidableEq, Repr

end Sys2Proof
end

