-- ==== Sys2Proof/WellFormed.lean ====
section
/-! DEFINITION. Which commands are well formed. The operand types of Syntax.lean already keep every index in its
range; what is left is Table 10-7: which reason stands on which subject, and into which port's set it goes. -/

namespace Sys2Proof

/-- Table 10-7: DOMAIN_FAULT stands on a domain and goes to HP0; every other reason stands on a module. -/
def alertPostingFits (p : Port) : Subject → Reason → Bool
  | .domain _, .domainFault => p == 0
  | .domain _, _ => false
  | .module _, .domainFault => false
  | .module _, _ => true

/-- A command is well formed: an alert posting fits Table 10-7; every other command always is. -/
def Instr.wellFormed : Instr → Bool
  | .alertPostingReachesPort p subject reason => alertPostingFits p subject reason
  | .frameBegin _ => true
  | .frameEnd _ _ => true
  | .badCommand => true
  | .place => true
  | .change => true
  | .renew => true
  | .release => true
  | .queryClaim => true
  | .queryModule => true
  | .queryDomain => true
  | .browse => true
  | .browseNext => true
  | .takeChange => true
  | .takeAlert => true
  | .setNotify => true
  | .restart => true
  | .clearModuleFault => true
  | .detach => true
  | .setModule => true
  | .setModuleTiming => true
  | .setDomain => true
  | .setKeepOn => true
  | .setQuota => true
  | .setTick => true
  | .evict => true
  | .retireAll => true
  | .clearDomainFault => true
  | .levelNotice _ => true
  | .restartStartNotice _ => true
  | .restartEndNotice _ => true
  | .faultNoticeAtCt _ => true
  | .tick => true
  | .setTickHandover => true
  | .leaseCountdown => true
  | .lapse _ => true
  | .claimedLevelNotice _ => true
  | .stateNotice _ => true
  | .faultNoticeAtDr _ => true
  | .setModuleHandoverDr _ => true
  | .setModuleHandoverEngine _ => true
  | .setKeepOnHandover _ => true
  | .setModuleTimingHandover _ => true
  | .setDomainHandover _ => true
  | .mwakeRise _ => true
  | .mwakeFall _ => true
  | .idleCountTick => true
  | .idleCountRunsOut _ => true
  | .targetPostingAtEngine _ => true
  | .needPosting _ => true
  | .restartPosting _ => true
  | .takeEntry _ => true
  | .hold _ => true
  | .mrdyRise _ => true
  | .mrdyFall _ => true
  | .ackTimeout _ => true
  | .supplierFaultNotice _ => true
  | .supplierClearNotice _ => true
  | .moduleClear _ => true
  | .domainClear _ => true
  | .dpgRise _ => true
  | .dpgFall _ => true
  | .rampTimeout _ => true
  | .offTimeout _ => true
  | .lingerTick _ => true
  | .lingerRunsOut _ => true
  | .deviceResetAsserted => true
  | .deviceResetReleased => true

end Sys2Proof
end

