-- ==== Sys2Proof/Decode.lean ====
section
/-! DEFINITION. The commands that a word spells by the table's bits. spec/opcode_table.json gives no row any bits
("n_rows_with_fixed": 0, 98_reader.md): the VD432's commands are events, and a request's bytes reach the part through
a frame (R153), not as a word. So no word spells a command. -/

namespace Sys2Proof

/-- The command a word spells by the bits of spec/opcode_table.json: none, since no row has bits. -/
def decodeTableWord (_nbits _w : Nat) : Option Instr := none

end Sys2Proof
end

