-- ==== Sys2Proof/Config.lean ====
section
/-! DEFINITION. The constants the specification fixes for every VD432: times, sizes and the settings that device
reset loads. The specification leaves no result value of a command open, so there is no free value here
(INVENTORY.md, "What the manual leaves open"). -/

namespace Sys2Proof.Config

/-- µs units in a quarter (Table 3-1). -/
def quarterUs : Nat := 250
/-- TICKDIV after device reset (R46). -/
def resetTickDiv : Nat := 4
/-- µs units of one unit of a ramp or off timeout (R98). -/
def rampUnitUs : Nat := 10
/-- Default ack timeout in µs (R78). -/
def defaultAckTimeout : Nat := 100
/-- Default reset hold in µs (R78). -/
def defaultResetHold : Nat := 10
/-- Default idle window in ticks (R78). -/
def defaultIdleWindow : Nat := 8
/-- Ramp timeout after device reset, in units of 10 µs (Table 6-2). -/
def resetRampTimeout : Nat := 100
/-- Off timeout after device reset, in units of 10 µs (Table 6-2). -/
def resetOffTimeout : Nat := 100
/-- Linger setting after device reset, in ticks (Table 6-2). -/
def resetLinger : Nat := 0
/-- Quota of every port after device reset (R19). -/
def resetQuota : Nat := 32

end Sys2Proof.Config
end

