-- ==== Sys2Proof/Machine/State.lean ====
section
/-! DEFINITION. The state of the VD432: what each block holds (host port controllers, claim table, demand resolver,
domain engines, timebase), the input pins, the notices and postings in flight between the blocks, and the queue of
commands that are waiting. Each type cites the rule or table that names it. `State.reset` is the part just after
RESET_N is released (R177). -/

namespace Sys2Proof.Machine

/-! ### Physical states, targets, faults -/

/-- Recorded physical state of a module (Table 5-3). -/
inductive PhysState where
  | off
  | held
  | paused
  | running
  | fault
  deriving DecidableEq, Repr

/-- The five targets of Table 4-3. -/
inductive Target where
  | off
  | paused
  | pausedArmed
  | runningWoken
  | running
  deriving DecidableEq, Repr

/-- Module fault causes (Table 9-1). -/
inductive ModCause where
  | ackTimeout
  | readyLost
  | supplier
  | domain
  deriving DecidableEq, Repr

/-- Switched-domain states (Table 6-2). -/
inductive DomState where
  | off
  | rampUp
  | on
  | linger
  | rampDown
  | fault
  deriving DecidableEq, Repr

/-- Domain fault causes (Table 9-2). -/
inductive DomCause where
  | noPowerGood
  | stuckOn
  | powerLost
  deriving DecidableEq, Repr

/-- The steps of a path (Table 5-6). -/
inductive LineStep where
  | clockOn
  | clockOff
  | resetAssert
  | resetRelease
  | hold
  deriving DecidableEq, Repr

/-! ### The module directory -/

/-- A module directory record (Table 4-2). -/
structure DirRecord where
  present : Bool
  wakeUsed : Bool
  domain : Domain
  supplier : Option Module
  owner : Port
  deriving DecidableEq, Repr

/-! ### The claim table -/

/-- Break reasons (Table 1-4). -/
inductive BreakReason where
  | moduleFault
  | supplierFault
  | domainFault
  deriving DecidableEq, Repr

/-- The state of a claim in a slot that is not FREE (Table 1-1); BROKEN carries its break reason. -/
inductive ClaimState where
  | pending
  | granted
  | broken (r : BreakReason)
  | lapsed
  | evicted
  deriving DecidableEq, Repr

/-- The fields of a slot that hold a value only while the slot is not FREE (Table 1-1). -/
structure Claim where
  holder : Port
  module : Module
  level : Level
  /-- Lease length in ticks, 0 for a pinned claim. -/
  leaseLength : Nat
  /-- Lease remaining in ticks; absent for a pinned or dead claim. -/
  leaseLeft : Option Nat
  tag : Half
  /-- Generation seen; absent until the claim is first granted. -/
  genSeen : Option Byte
  state : ClaimState
  deriving DecidableEq, Repr

/-- A slot (Table 1-1): its generation, and its claim unless the slot is FREE (`claim = none`). -/
structure SlotRec where
  gen : Byte
  claim : Option Claim
  deriving DecidableEq, Repr

/-- The claim table's view of a module (R10). -/
structure ModView where
  level : Level
  gen : Byte
  fault : Bool
  deriving DecidableEq, Repr

/-- A browse cursor (R23): before the first claim of the module's list (`after = none`), or after a claim. -/
structure Cursor where
  module : Module
  after : Option Slot
  deriving DecidableEq, Repr

/-- The items the claim table keeps for a port (section 1.5): count, quota, change set, browse cursor. -/
structure CtPort where
  count : Nat
  quota : Nat
  /-- The change set, ascending and without duplicates (R20). -/
  changes : List Slot
  cursor : Option Cursor
  deriving DecidableEq, Repr

/-- The claim table (Table 1-5), with its copy of the directory (R57) and of the last divider it accepted (R47). -/
structure Ct where
  slots : Vector SlotRec 128
  /-- Claim lists, head first (R6). -/
  lists : Vector (List Slot) 32
  claimed : Vector Level 32
  views : Vector ModView 32
  /-- Restart-outstanding marks (R13): the port whose RESTART was accepted. -/
  restartMark : Vector (Option Port) 32
  ports : Vector CtPort 4
  dir : Vector DirRecord 32
  divider : Nat
  deriving DecidableEq, Repr

/-! ### The demand resolver -/

/-- The demand resolver's view of a module (R60). -/
structure DrView where
  state : PhysState
  armed : Bool
  woken : Bool
  deriving DecidableEq, Repr

/-- The demand resolver (Tables 4-5 and 7-1); it holds the module directory. -/
structure Dr where
  dir : Vector DirRecord 32
  claimed : Vector Level 32
  views : Vector DrView 32
  eff : Vector Level 32
  posted : Vector Target 32
  watched : Vector Bool 32
  wakeReq : Vector Bool 32
  /-- Idle counts (R123): `none` is not running. -/
  idle : Vector (Option Nat) 32
  wakeNeed : Vector Bool 32
  need : Vector Bool 4
  postedNeed : Vector Bool 3
  keepOn : Vector Bool 3
  deriving DecidableEq, Repr

/-! ### The domain engines -/

/-- A module's record at its engine (Table 5-2), its two lines (Table 5-3) and its pending restart mark with the
recorded requester (R82, R131). -/
structure ModRec where
  state : PhysState
  armed : Bool
  woken : Bool
  gen : Byte
  cause : Option ModCause
  wanted : Target
  stepping : Bool
  ackTimeout : Nat
  resetHold : Nat
  idleWindow : Nat
  /-- MCLKEN high. -/
  clockOpen : Bool
  /-- MRST_N released. -/
  resetReleased : Bool
  pendingRestart : Option Port
  deriving DecidableEq, Repr

/-- A queue entry (R80): the restart flag is set when `restart` names the recorded requester (R131). -/
structure Entry where
  module : Module
  target : Target
  restart : Option Port
  deriving DecidableEq, Repr

/-- A transition in flight: the step in flight is the head of `steps`; `target` is the entry's target when it was
taken (R85); `restart` names the requester when it is a restart (R133). -/
structure Transition where
  module : Module
  steps : List LineStep
  target : Target
  restart : Option Port
  deriving DecidableEq, Repr

/-- An engine's work in flight (R89). -/
inductive Work where
  | idle
  | transition (t : Transition)
  | ramp
  deriving DecidableEq, Repr

/-- What an engine holds beside its module and domain records (Table 5-1). -/
structure EngineRec where
  /-- The transition queue, oldest entry first. -/
  queue : List Entry
  work : Work
  /-- The step timer: µs units still to be counted; `none` is stopped. -/
  timer : Option Nat
  deriving DecidableEq, Repr

/-- The record of a switched domain at its engine (Table 6-2) and its two output lines (Table 6-3). -/
structure DomRec where
  state : DomState
  cause : Option DomCause
  need : Bool
  /-- The linger count (R104): `none` is not running. -/
  lingerCount : Option Nat
  rampTimeout : Nat
  offTimeout : Nat
  linger : Nat
  /-- DSW asserted. -/
  dsw : Bool
  /-- DISO_N released. -/
  isoReleased : Bool
  deriving DecidableEq, Repr

/-- The four engines; `dir` is the directory as last handed over to them (R74). -/
structure Engines where
  dir : Vector DirRecord 32
  mods : Vector ModRec 32
  recs : Vector EngineRec 4
  doms : Vector DomRec 3
  deriving DecidableEq, Repr

/-! ### The timebase -/

/-- The timebase (R46): TICKDIV, the two counts and the length of the period in progress. -/
structure Timebase where
  tickDiv : Nat
  usCount : Nat
  quarterCount : Nat
  periodLength : Nat
  deriving DecidableEq, Repr

/-- The tick issued and not yet taken, at each of its users (R48). -/
structure TickWaiting where
  ct : Bool
  dr : Bool
  eng : Vector Bool 4
  deriving DecidableEq, Repr

/-! ### The host port controllers -/

/-- The eight bytes of an answer (R156). -/
structure AnswerBytes where
  status : Byte
  echo : Byte
  b2 : Byte
  b3 : Byte
  b4 : Byte
  b5 : Byte
  b6 : Byte
  b7 : Byte
  deriving DecidableEq, Repr

/-- A request (R153): code, sequence, and the bytes from byte 2 to the command's frame length. -/
structure Request where
  code : Byte
  sequence : BitVec 4
  operands : List Byte
  deriving DecidableEq, Repr

/-- The wire side of a port (R152, R154): no frame; a frame that shifts out a fixed copy; or a frame that is ignored
because device reset touched it. -/
inductive Wire where
  | deselected
  | frame (copy : AnswerBytes)
  | ignored
  deriving DecidableEq, Repr

/-- A member of an alert set (R162): a subject with its reasons, one bit a reason as Table 10-5 codes them. -/
structure AlertEntry where
  subject : Subject
  reasons : Byte
  deriving DecidableEq, Repr

/-- A host port controller (Table 10-1). HINT_N is worked out from it (R165). -/
structure PortRec where
  slot : Option Request
  holder : AnswerBytes
  overrun : Bool
  frameMark : Bool
  /-- The alert set, in ascending subject order (R162). -/
  alerts : List AlertEntry
  notify : Bool
  wire : Wire
  deriving DecidableEq, Repr

/-! ### What is in flight between the blocks -/

/-- Notices of an engine to the claim table (Table 1-3). -/
inductive CtNotice where
  | level (m : Module) (x : Level) (gen : Byte)
  | restartStart (m : Module)
  | restartEnd (m : Module)
  | fault (m : Module) (c : ModCause)
  deriving DecidableEq, Repr

/-- Notices of an engine to the demand resolver (R60). -/
inductive DrNotice where
  | state (m : Module) (v : DrView)
  | fault (m : Module) (c : ModCause)
  deriving DecidableEq, Repr

/-- Hand-overs and postings of the claim table to an engine (R74). -/
inductive CtPosting where
  /-- A SET MODULE hand-over; `old` is the domain the module leaves. -/
  | setModule (m : Module) (r : DirRecord) (old : Domain)
  | setTiming (m : Module) (ackTimeout resetHold idleWindow : Nat)
  | setDomain (x : SwDom) (rampTimeout offTimeout linger : Nat)
  | restart (m : Module) (p : Port)
  | moduleClear (m : Module)
  | domainClear (x : SwDom)
  deriving DecidableEq, Repr

/-- Postings of the demand resolver to an engine (R66, R140, R146). -/
inductive DrPosting where
  | target (m : Module) (t : Target)
  | need (present : Bool)
  | supplierFault (m : Module)
  | supplierClear (m : Module)
  deriving DecidableEq, Repr

/-- An alert posting on its way to a port controller (R162). -/
structure Alert where
  port : Port
  subject : Subject
  reason : Reason
  deriving DecidableEq, Repr

/-- Everything in flight, each stream oldest first: engines to CT and to DR, CT to DR, CT to engines, DR to engines,
CT to timebase, and alert postings (DEDUCED, logs 13 and 14; alerts in any order, log 15). -/
structure Links where
  toCt : Vector (List CtNotice) 4
  toDr : Vector (List DrNotice) 4
  claimedLevels : List (Module × Level)
  modulesToDr : List (Module × DirRecord)
  keepOnToDr : List (SwDom × Bool)
  ctToEngine : Vector (List CtPosting) 4
  drToEngine : Vector (List DrPosting) 4
  dividers : List Nat
  alerts : List Alert
  deriving DecidableEq, Repr

/-- An input pin whose level changes a block of the part takes (Table 3 of 00_scope.md, R45). -/
inductive Pin where
  | mrdy (m : Module)
  | mwake (m : Module)
  | dpg (x : SwDom)
  deriving DecidableEq, Repr

/-- A level change of an input pin: a rise where `up` is true, else a fall. -/
structure Edge where
  pin : Pin
  up : Bool
  deriving DecidableEq, Repr

/-- The inputs of the part (Table 3 of 00_scope.md): the levels of MRDY, MWAKE and DPG, true for high; whether REFCLK
runs; the level changes that came while it stood still and that no block has taken yet, oldest first (R45); and what
REFCLK does next, true for running (the model's own list of inputs, log 20). -/
structure Pins where
  mrdy : Vector Bool 32
  mwake : Vector Bool 32
  dpg : Vector Bool 3
  refclk : Bool
  edges : List Edge
  refclkAhead : List Bool
  deriving DecidableEq, Repr

end Sys2Proof.Machine

namespace Sys2Proof.Machine

/-- The whole part, and the commands that are waiting (first in, first out). -/
structure State where
  ct : Ct
  dr : Dr
  engines : Engines
  timebase : Timebase
  ticks : TickWaiting
  ports : Vector PortRec 4
  /-- The intake arbiter's last port served (R161). -/
  lastServed : Port
  links : Links
  pins : Pins
  /-- RESET_N is asserted. -/
  inReset : Bool
  pending : List Instr
  deriving DecidableEq, Repr

/-- Why a step stops with a fault: no reason exists. The specification gives every command of the table an effect in
every state, so no meaning stops (safe: there is nothing that a claim could rest on). -/
inductive Fault where
  deriving DecidableEq, Repr

/-- Why a step is refused. -/
inductive Refusal where
  /-- Raised only by an arm of `exec` whose command has no meaning yet; no arm raises it (safe). -/
  | notModelled (mnemonic : String)
  deriving DecidableEq, Repr

/-- The outcome of a command. -/
abbrev Res := Host.Outcome State Fault Refusal

/-! ### After device reset -/

/-- Table 4-2, last column. -/
def DirRecord.reset : DirRecord :=
  { present := false, wakeUsed := false, domain := 0, supplier := none, owner := 0 }

/-- Table 1-5. -/
def Ct.reset : Ct :=
  { slots := Vector.replicate 128 { gen := 0, claim := none }
    lists := Vector.replicate 32 []
    claimed := Vector.replicate 32 0
    views := Vector.replicate 32 { level := 0, gen := 0, fault := false }
    restartMark := Vector.replicate 32 none
    ports := Vector.replicate 4 { count := 0, quota := Config.resetQuota, changes := [], cursor := none }
    dir := Vector.replicate 32 DirRecord.reset
    divider := Config.resetTickDiv }

/-- Table 4-5. -/
def Dr.reset : Dr :=
  { dir := Vector.replicate 32 DirRecord.reset
    claimed := Vector.replicate 32 0
    views := Vector.replicate 32 { state := .off, armed := false, woken := false }
    eff := Vector.replicate 32 0
    posted := Vector.replicate 32 .off
    watched := Vector.replicate 32 false
    wakeReq := Vector.replicate 32 false
    idle := Vector.replicate 32 none
    wakeNeed := Vector.replicate 32 false
    need := Vector.replicate 4 false
    postedNeed := Vector.replicate 3 false
    keepOn := Vector.replicate 3 false }

/-- Table 5-8, one module. -/
def ModRec.reset : ModRec :=
  { state := .off, armed := false, woken := false, gen := 0, cause := none, wanted := .off, stepping := false
    ackTimeout := Config.defaultAckTimeout, resetHold := Config.defaultResetHold
    idleWindow := Config.defaultIdleWindow, clockOpen := false, resetReleased := false, pendingRestart := none }

/-- Table 6-2, last column, with the lines of Table 6-3 for OFF. -/
def DomRec.reset : DomRec :=
  { state := .off, cause := none, need := false, lingerCount := none, rampTimeout := Config.resetRampTimeout
    offTimeout := Config.resetOffTimeout, linger := Config.resetLinger, dsw := false, isoReleased := false }

/-- Tables 5-8 and 6-2. -/
def Engines.reset : Engines :=
  { dir := Vector.replicate 32 DirRecord.reset
    mods := Vector.replicate 32 ModRec.reset
    recs := Vector.replicate 4 { queue := [], work := .idle, timer := none }
    doms := Vector.replicate 3 DomRec.reset }

/-- R46. -/
def Timebase.reset : Timebase :=
  { tickDiv := Config.resetTickDiv, usCount := 0, quarterCount := 0, periodLength := Config.resetTickDiv }

/-- No tick waits. -/
def TickWaiting.reset : TickWaiting := { ct := false, dr := false, eng := Vector.replicate 4 false }

/-- The reset answer (R156): NONE, echo 0, all flags and result bytes 0. -/
def AnswerBytes.reset : AnswerBytes :=
  { status := 0, echo := 0, b2 := 0, b3 := 0, b4 := 0, b5 := 0, b6 := 0, b7 := 0 }

/-- Table 10-8, one port, with no frame on its wire. -/
def PortRec.reset : PortRec :=
  { slot := none, holder := AnswerBytes.reset, overrun := false, frameMark := false, alerts := [], notify := false
    wire := .deselected }

/-- Nothing is in flight (R25, R73, R96, R167). -/
def Links.reset : Links :=
  { toCt := Vector.replicate 4 [], toDr := Vector.replicate 4 [], claimedLevels := [], modulesToDr := []
    keepOnToDr := [], ctToEngine := Vector.replicate 4 [], drToEngine := Vector.replicate 4 [], dividers := []
    alerts := [] }

/-- DESIGN CHOICE (log 2, unsafe): the input pins are driven from outside and have no reset value; here all levels are
low, and REFCLK runs. -/
def Pins.reset : Pins :=
  { mrdy := Vector.replicate 32 false, mwake := Vector.replicate 32 false, dpg := Vector.replicate 3 false
    refclk := true, edges := [], refclkAhead := [] }

/-- The part just after RESET_N is released (R177), with no command waiting. -/
def State.reset : State :=
  { ct := Ct.reset, dr := Dr.reset, engines := Engines.reset, timebase := Timebase.reset, ticks := TickWaiting.reset
    ports := Vector.replicate 4 PortRec.reset, lastServed := 3, links := Links.reset, pins := Pins.reset
    inReset := false, pending := [] }

end Sys2Proof.Machine
end

