-- ==== Sys2Proof/Machine/Flags.lean ====
section
/-! DEFINITION. What an answer spells: status codes (Table 10-3), the field encodings of Table 10-5, the result bytes
of an answer before it is written (R160), and byte 1 with its four flags (R157). -/

namespace Sys2Proof.Machine

/-- Answer statuses (Table 10-3). -/
inductive Status where
  | none
  | ok
  | waiting
  | empty
  | badCommand
  | badArgument
  | notPermitted
  | noModule
  | faulted
  | stale
  | notLive
  | quota
  | full
  | busy
  | inUse
  | notRunning
  | dependents
  | contested
  | powerPresent
  | notFaulted
  deriving DecidableEq, Repr

/-- Table 10-3. -/
def statusCode : Status → Byte
  | .none => 0x00
  | .ok => 0x01
  | .waiting => 0x02
  | .empty => 0x03
  | .badCommand => 0x10
  | .badArgument => 0x11
  | .notPermitted => 0x12
  | .noModule => 0x13
  | .faulted => 0x14
  | .stale => 0x15
  | .notLive => 0x16
  | .quota => 0x17
  | .full => 0x18
  | .busy => 0x19
  | .inUse => 0x1A
  | .notRunning => 0x1B
  | .dependents => 0x1C
  | .contested => 0x1D
  | .powerPresent => 0x1E
  | .notFaulted => 0x1F

/-- A status with the six result bytes of Table 10-6; bytes a command does not name read 0 (R160). -/
structure Answer where
  status : Status
  b2 : Byte := 0
  b3 : Byte := 0
  b4 : Byte := 0
  b5 : Byte := 0
  b6 : Byte := 0
  b7 : Byte := 0
  deriving DecidableEq, Repr

/-- A refused answer: all six result bytes 0 (R160). -/
def Answer.refused (st : Status) : Answer := { status := st }

/-! ### Field encodings (Table 10-5) -/

def claimStateCode : ClaimState → BitVec 3
  | .pending => 1
  | .granted => 2
  | .broken _ => 3
  | .lapsed => 4
  | .evicted => 5

/-- The break reason of a BROKEN claim; 0 is absent. -/
def breakReasonCode : ClaimState → BitVec 2
  | .broken .moduleFault => 1
  | .broken .supplierFault => 2
  | .broken .domainFault => 3
  | _ => 0

def levelCode (l : Level) : BitVec 2 := BitVec.ofNat 2 l.val

def physStateCode : PhysState → BitVec 3
  | .off => 0
  | .held => 1
  | .paused => 2
  | .running => 3
  | .fault => 4

def modCauseCode : Option ModCause → BitVec 3
  | none => 0
  | some .ackTimeout => 1
  | some .readyLost => 2
  | some .supplier => 3
  | some .domain => 4

def domStateCode : DomState → BitVec 3
  | .off => 0
  | .rampUp => 1
  | .on => 2
  | .linger => 3
  | .rampDown => 4
  | .fault => 5

def domCauseCode : Option DomCause → BitVec 2
  | none => 0
  | some .noPowerGood => 1
  | some .stuckOn => 2
  | some .powerLost => 3

/-- The reason's bit of the alert reasons byte. -/
def reasonBit : Reason → Byte
  | .fault => 0x01
  | .strayWake => 0x02
  | .restartDone => 0x04
  | .restartFailed => 0x08
  | .domainFault => 0x10

/-- Alert subject: 0 to 31 a module; 33, 34, 35 are D1, D2, D3. -/
def subjectCode : Subject → Nat
  | .module m => m.val
  | .domain x => 33 + x.val

/-- The claim byte C: bits 2 to 0 state, 4 to 3 break reason, 6 to 5 level, 7 generation seen present. -/
def claimByte (state : BitVec 3) (reason : BitVec 2) (level : BitVec 2) (seen : Bool) : Byte :=
  BitVec.ofBool seen ++ level ++ reason ++ state

/-- The claim byte that carries a state alone. -/
def stateByte (st : ClaimState) : Byte := claimByte (claimStateCode st) 0 0 false

/-- The claim byte that carries a state and its break reason. -/
def reasonByte (st : ClaimState) : Byte := claimByte (claimStateCode st) (breakReasonCode st) 0 false

/-- The holder and module byte H: bits 7 to 6 holder port, bits 4 to 0 module. -/
def holderByte (p : Port) (m : Module) : Byte := BitVec.ofNat 2 p.val ++ (0 : BitVec 1) ++ BitVec.ofNat 5 m.val

/-- A number shown in one byte. -/
def byteOf (n : Nat) : Byte := BitVec.ofNat 8 n

/-- The high and the low byte of a number shown in 16 bits. -/
def highByte (n : Nat) : Byte := (BitVec.ofNat 16 n).extractLsb' 8 8
def lowByte (n : Nat) : Byte := (BitVec.ofNat 16 n).extractLsb' 0 8

/-- A yes or no shown in one byte. -/
def boolByte (b : Bool) : Byte := if b then 1 else 0

/-- The answer to a request refused NOT_LIVE: the dead state, and the break reason of a BROKEN claim (R26, R160). -/
def Answer.notLive (st : ClaimState) : Answer := { status := .notLive, b2 := reasonByte st }

/-! ### Byte 1 of an answer (R157, Table 10-2a) -/

/-- Bits 3 to 0 sequence echo, 4 OVERRUN, 5 FRAME, 6 CHANGES-PENDING, 7 ALERTS-PENDING. -/
def echoByte (sequence : BitVec 4) (overrun frame changes alerts : Bool) : Byte :=
  BitVec.ofBool alerts ++ BitVec.ofBool changes ++ BitVec.ofBool frame ++ BitVec.ofBool overrun ++ sequence

/-- The eight bytes of an answer. -/
def Answer.bytes (a : Answer) (echo : Byte) : AnswerBytes :=
  { status := statusCode a.status, echo := echo, b2 := a.b2, b3 := a.b3, b4 := a.b4, b5 := a.b5, b6 := a.b6, b7 := a.b7 }

/-- Byte `k` that a frame shifts out on HSDO: the copy in order, then 0x00 (R152). -/
def AnswerBytes.byte (a : AnswerBytes) (k : Nat) : Byte :=
  [a.status, a.echo, a.b2, a.b3, a.b4, a.b5, a.b6, a.b7].getD k 0

/-- Bit `k` of HSDO during a frame: none is high impedance (R152, R154). -/
def Wire.hsdo (w : Wire) (k : Nat) : Option Bool :=
  match w with
  | .frame copy => some ((copy.byte (k / 8)).getMsbD (k % 8))
  | .deselected => none
  | .ignored => none

end Sys2Proof.Machine
end

