-- ==== Sys2Proof/Machine/Operands.lean ====
section
/-! DEFINITION. What a frame spells: bytes out of sampled bits (R152), the frame lengths of Table 10-2, the request a
frame becomes (R153), and the operands of a request at the byte positions of Table 10-4 (R159). -/

namespace Sys2Proof.Machine

/-- A byte from eight bits, most significant first (R152). -/
def byteOfBits (b7 b6 b5 b4 b3 b2 b1 b0 : Bool) : Byte :=
  BitVec.ofBool b7 ++ BitVec.ofBool b6 ++ BitVec.ofBool b5 ++ BitVec.ofBool b4 ++
    BitVec.ofBool b3 ++ BitVec.ofBool b2 ++ BitVec.ofBool b1 ++ BitVec.ofBool b0

/-- The complete bytes of a frame, in the order received; a partial final byte is discarded (R152). -/
def completeBytes : List Bool → List Byte
  | b7 :: b6 :: b5 :: b4 :: b3 :: b2 :: b1 :: b0 :: rest =>
      byteOfBits b7 b6 b5 b4 b3 b2 b1 b0 :: completeBytes rest
  | _ => []

/-! ### Command codes (Table 10-2) -/

def codeNop : Byte := 0x00
def codePlace : Byte := 0x01
def codeChange : Byte := 0x02
def codeRenew : Byte := 0x03
def codeRelease : Byte := 0x04
def codeQueryClaim : Byte := 0x05
def codeQueryModule : Byte := 0x08
def codeQueryDomain : Byte := 0x09
def codeBrowse : Byte := 0x0A
def codeBrowseNext : Byte := 0x0B
def codeTakeChange : Byte := 0x0C
def codeTakeAlert : Byte := 0x0D
def codeSetNotify : Byte := 0x0E
def codeRestart : Byte := 0x10
def codeClearModuleFault : Byte := 0x11
def codeDetach : Byte := 0x1F
def codeSetModule : Byte := 0x20
def codeSetModuleTiming : Byte := 0x21
def codeSetDomain : Byte := 0x22
def codeSetKeepOn : Byte := 0x23
def codeSetQuota : Byte := 0x24
def codeSetTick : Byte := 0x25
def codeEvict : Byte := 0x26
def codeRetireAll : Byte := 0x27
def codeClearDomainFault : Byte := 0x28

/-- The codes of Table 10-2 with their frame lengths; NOP's length is any, and it makes no request. -/
def commandTable : List (Byte × Nat) :=
  [(codePlace, 8), (codeChange, 5), (codeRenew, 6), (codeRelease, 4), (codeQueryClaim, 4),
   (codeQueryModule, 3), (codeQueryDomain, 3), (codeBrowse, 3), (codeBrowseNext, 2), (codeTakeChange, 2),
   (codeTakeAlert, 2), (codeSetNotify, 3), (codeRestart, 3), (codeClearModuleFault, 3), (codeDetach, 2),
   (codeSetModule, 6), (codeSetModuleTiming, 7), (codeSetDomain, 8), (codeSetKeepOn, 4), (codeSetQuota, 4),
   (codeSetTick, 3), (codeEvict, 4), (codeRetireAll, 2), (codeClearDomainFault, 3)]

/-- The frame length of a code; 2 for a code that names no command (R153 case 3). -/
def frameLength (code : Byte) : Nat := (commandTable.lookup code).getD 2

/-- The code names a command of Table 10-2, NOP included (R158). -/
def namesCommand (code : Byte) : Bool := code == codeNop || (commandTable.lookup code).isSome

/-- The codes of the control port, 0x20 to 0x28 (R158). -/
def controlCode (code : Byte) : Bool := decide (0x20 ≤ code.toNat ∧ code.toNat ≤ 0x28)

/-- The request that a frame of these complete bytes becomes (R153 case 5): code, low 4 bits of byte 1, and the operand
bytes up to the command's frame length. -/
def requestOf (bytes : List Byte) : Request :=
  { code := bytes.getD 0 0
    sequence := (bytes.getD 1 0).setWidth 4
    operands := (bytes.take (frameLength (bytes.getD 0 0))).drop 2 }

/-! ### Operands (R159, Table 10-4) -/

/-- Byte `k` of the request frame (`k` from 2). -/
def Request.byte (r : Request) (k : Nat) : Byte := r.operands.getD (k - 2) 0

/-- The 16-bit operand in bytes `k` and `k + 1`, the more significant byte first. -/
def Request.half (r : Request) (k : Nat) : Half := r.byte k ++ r.byte (k + 1)

/-- A module index 0 to 31. -/
def moduleOf (b : Byte) : Option Module := if h : b.toNat < 32 then some ⟨b.toNat, h⟩ else none

/-- A domain index 0 to 3. -/
def domainOf (b : Byte) : Option Domain := if h : b.toNat < 4 then some ⟨b.toNat, h⟩ else none

/-- A switched-domain index 1 to 3. -/
def swDomOf (b : Byte) : Option SwDom :=
  if h : 1 ≤ b.toNat ∧ b.toNat ≤ 3 then some ⟨b.toNat - 1, by omega⟩ else none

/-- A port index 0 to 3. -/
def portOf (b : Byte) : Option Port := if h : b.toNat < 4 then some ⟨b.toNat, h⟩ else none

/-- A slot number 0 to 127. -/
def slotOf (b : Byte) : Option Slot := if h : b.toNat < 128 then some ⟨b.toNat, h⟩ else none

/-- A claim level 1 to 3. -/
def claimLevelOf (b : Byte) : Option Level :=
  if h : 1 ≤ b.toNat ∧ b.toNat ≤ 3 then some ⟨b.toNat, by omega⟩ else none

/-- A one-byte switch operand: 0x00 off, 0x01 on. -/
def switchOf (b : Byte) : Option Bool := if b = 0 then some false else if b = 1 then some true else none

/-- The supplier operand of SET MODULE: 0xFF absent, or a module index; `none` where it is neither. -/
def supplierOf (b : Byte) : Option (Option Module) := if b = 0xFF then some none else (moduleOf b).map some

/-- The switched domain of a domain, and none for D0. -/
def switchedOf (d : Domain) : Option SwDom :=
  if h : 1 ≤ d.val then some ⟨d.val - 1, by omega⟩ else none

end Sys2Proof.Machine
end

