-- ==== Sys2Proof/Machine/Ops.lean ====
section
/-! DEFINITION. The shared operations over the state: table updates, posting into the streams in flight, the claim
table's operations (chapter 1), the alert sets, the request slots and the answer holders (chapter 10), and the passage
of time (chapter 3). -/

namespace Sys2Proof.Machine

/-! ### Updates -/

/-- Change one entry of a table. -/
def modifyAt {α : Type} {n : Nat} (v : Vector α n) (i : Fin n) (f : α → α) : Vector α n := v.set i (f v[i])

def State.onCt (s : State) (f : Ct → Ct) : State := { s with ct := f s.ct }
def State.onDr (s : State) (f : Dr → Dr) : State := { s with dr := f s.dr }
def State.onEngines (s : State) (f : Engines → Engines) : State := { s with engines := f s.engines }
def State.onLinks (s : State) (f : Links → Links) : State := { s with links := f s.links }
def State.onPins (s : State) (f : Pins → Pins) : State := { s with pins := f s.pins }
def State.onTicks (s : State) (f : TickWaiting → TickWaiting) : State := { s with ticks := f s.ticks }
def State.onTimebase (s : State) (f : Timebase → Timebase) : State := { s with timebase := f s.timebase }
def State.onPort (s : State) (p : Port) (f : PortRec → PortRec) : State := { s with ports := modifyAt s.ports p f }

/-- Change the record of a module at its engine. -/
def State.onMod (s : State) (m : Module) (f : ModRec → ModRec) : State :=
  s.onEngines fun g => { g with mods := modifyAt g.mods m f }

/-- Change what an engine holds beside its module and domain records. -/
def State.onRec (s : State) (e : Domain) (f : EngineRec → EngineRec) : State :=
  s.onEngines fun g => { g with recs := modifyAt g.recs e f }

/-- Change the record of a switched domain. -/
def State.onDom (s : State) (x : SwDom) (f : DomRec → DomRec) : State :=
  s.onEngines fun g => { g with doms := modifyAt g.doms x f }

/-- RESET_N is released and REFCLK runs: the blocks take events (R25, R45, R73, R96). -/
def State.isRunning (s : State) : Bool := !s.inReset && s.pins.refclk

/-- What a block does with an event that reaches it: nothing while RESET_N is asserted (R25, R73, R96), and nothing while
REFCLK stands still, where the event waits at its source: in its request slot, its stream, its tick or its edge (R45). -/
def State.awake (s : State) (f : State → State) : State := if s.isRunning then f s else s

/-! ### Streams in flight -/

/-- An engine posts a notice to the claim table (R9). -/
def State.noticeCt (s : State) (e : Domain) (n : CtNotice) : State :=
  s.onLinks fun l => { l with toCt := modifyAt l.toCt e (· ++ [n]) }

/-- An engine posts a notice to the demand resolver (R60). -/
def State.noticeDr (s : State) (e : Domain) (n : DrNotice) : State :=
  s.onLinks fun l => { l with toDr := modifyAt l.toDr e (· ++ [n]) }

/-- The claim table posts to an engine (R74). -/
def State.postEngine (s : State) (e : Domain) (p : CtPosting) : State :=
  s.onLinks fun l => { l with ctToEngine := modifyAt l.ctToEngine e (· ++ [p]) }

/-- The demand resolver posts to an engine (R66). -/
def State.demandEngine (s : State) (e : Domain) (p : DrPosting) : State :=
  s.onLinks fun l => { l with drToEngine := modifyAt l.drToEngine e (· ++ [p]) }

/-- An alert posting sets out for a port (R162). -/
def State.alert (s : State) (p : Port) (subject : Subject) (reason : Reason) : State :=
  s.onLinks fun l => { l with alerts := l.alerts ++ [{ port := p, subject := subject, reason := reason }] }

def State.dropCtNotice (s : State) (e : Domain) : State :=
  s.onLinks fun l => { l with toCt := modifyAt l.toCt e List.tail }
def State.dropDrNotice (s : State) (e : Domain) : State :=
  s.onLinks fun l => { l with toDr := modifyAt l.toDr e List.tail }
def State.dropCtPosting (s : State) (e : Domain) : State :=
  s.onLinks fun l => { l with ctToEngine := modifyAt l.ctToEngine e List.tail }
def State.dropDrPosting (s : State) (e : Domain) : State :=
  s.onLinks fun l => { l with drToEngine := modifyAt l.drToEngine e List.tail }

/-! ### Claims (chapter 1) -/

/-- A claim in PENDING or GRANTED is live (R2). -/
def ClaimState.live : ClaimState → Bool
  | .pending => true
  | .granted => true
  | .broken _ => false
  | .lapsed => false
  | .evicted => false

/-- The claim in a slot, absent in a FREE slot. -/
def Ct.claimAt (ct : Ct) (sl : Slot) : Option Claim := ct.slots[sl].claim

/-- Change the claim in a slot; a FREE slot is left as it is. -/
def Ct.onClaim (ct : Ct) (sl : Slot) (f : Claim → Claim) : Ct :=
  { ct with slots := modifyAt ct.slots sl fun r => { r with claim := r.claim.map f } }

/-- Change the items the claim table keeps for a port. -/
def Ct.onPort (ct : Ct) (p : Port) (f : CtPort → CtPort) : Ct := { ct with ports := modifyAt ct.ports p f }

/-- Insert into an ascending list without duplicates (R20). -/
def insertSlot (sl : Slot) : List Slot → List Slot
  | [] => [sl]
  | a :: rest => if sl < a then sl :: a :: rest else if sl = a then a :: rest else a :: insertSlot sl rest

/-- Mark a slot in a port's change set (R20). -/
def Ct.mark (ct : Ct) (p : Port) (sl : Slot) : Ct :=
  ct.onPort p fun q => { q with changes := insertSlot sl q.changes }

/-- The claim immediately before `sl` in a list; the first claim has none (R7). -/
def predecessor : List Slot → Slot → Option Slot
  | a :: b :: rest, sl => if b = sl then some a else predecessor (b :: rest) sl
  | _, _ => none

/-- The claim following `sl` in a list (R23). -/
def successor : List Slot → Slot → Option Slot
  | a :: rest, sl => if a = sl then rest.head? else successor rest sl
  | [], _ => none

/-- A cursor standing after `sl` in module `m`'s list moves to after the predecessor, or before first (R24). -/
def retreat (m : Module) (sl : Slot) (before : Option Slot) (c : Option Cursor) : Option Cursor :=
  if c = some { module := m, after := some sl } then some { module := m, after := before } else c

/-- Slot `sl` leaves module `m`'s claim list, and browse cursors standing after it move back (R7, R24). -/
def Ct.leaveList (ct : Ct) (m : Module) (sl : Slot) : Ct :=
  { ct with
    lists := modifyAt ct.lists m (·.filter (· ≠ sl))
    ports := Vector.ofFn fun p =>
      { ct.ports[p] with cursor := retreat m sl (predecessor ct.lists[m] sl) ct.ports[p].cursor } }

/-- The live claim in slot `sl` dies into `st`; `marked` tells whether its holder's change set takes it (R15). -/
def Ct.die (ct : Ct) (sl : Slot) (st : ClaimState) (marked : Bool) : Ct :=
  match ct.claimAt sl with
  | none => ct
  | some c =>
    let ct := (ct.leaveList c.module sl).onClaim sl fun c => { c with state := st, leaseLeft := none }
    if marked then ct.mark c.holder sl else ct

/-- A slot that is not FREE is freed (R16). -/
def Ct.freeSlot (ct : Ct) (sl : Slot) : Ct :=
  match ct.claimAt sl with
  | none => ct
  | some c =>
    let ct := if c.state.live then ct.leaveList c.module sl else ct
    { ct with slots := modifyAt ct.slots sl fun r => { gen := r.gen + 1, claim := none } }.onPort c.holder
      fun q => { q with changes := q.changes.filter (· ≠ sl), count := q.count - 1 }

/-- All slots in ascending order. -/
def allSlots : List Slot := List.finRange 128

/-- All modules in ascending order. -/
def allModules : List Module := List.finRange 32

/-- Free every slot whose claim passes the test, in ascending order (R17). -/
def Ct.freeAll (ct : Ct) (which : Claim → Bool) : Ct :=
  allSlots.foldl (fun ct sl => if (ct.claimAt sl).any which then ct.freeSlot sl else ct) ct

/-- How many slots hold a claim that passes the test. -/
def Ct.countClaims (ct : Ct) (which : Claim → Bool) : Nat :=
  (allSlots.filter fun sl => (ct.claimAt sl).any which).length

/-- A handle resolves to a slot that is not FREE and bears the handle's generation (R4). -/
def Ct.resolve (ct : Ct) (slotByte genByte : Byte) : Option (Slot × Claim) :=
  (slotOf slotByte).bind fun sl =>
    if ct.slots[sl].gen = genByte then (ct.claimAt sl).map fun c => (sl, c) else none

/-- The lowest-numbered FREE slot (R5). -/
def Ct.freeSlot? (ct : Ct) : Option Slot := allSlots.find? fun sl => (ct.claimAt sl).isNone

/-- The state a claim of level `l` takes from a module view (R5, R33): GRANTED when the view satisfies it. -/
def ModView.settles (v : ModView) (l : Level) : ClaimState := if l ≤ v.level then .granted else .pending

/-- A PLACE that passed its checks fills slot `sl` (R5). -/
def Ct.fill (ct : Ct) (sl : Slot) (p : Port) (m : Module) (l : Level) (lease : Nat) (tag : Half) : Ct :=
  let v := ct.views[m]
  let granted := !v.fault && decide (l ≤ v.level)
  let c : Claim :=
    { holder := p, module := m, level := l, leaseLength := lease
      leaseLeft := if lease = 0 then none else some lease
      tag := tag, genSeen := if granted then some v.gen else none
      state := if granted then .granted else .pending }
  { ct with
    slots := modifyAt ct.slots sl fun r => { r with claim := some c }
    lists := modifyAt ct.lists m (· ++ [sl]) }.onPort p fun q => { q with count := q.count + 1 }

/-- A CHANGE to another level: the state is decided afresh from the module view; a claim that becomes GRANTED records
the view's generation (R33). -/
def Ct.changeLevel (ct : Ct) (sl : Slot) (l : Level) : Ct :=
  ct.onClaim sl fun c =>
    let v := ct.views[c.module]
    let st := v.settles l
    { c with level := l, state := st
             genSeen := if st = .granted ∧ c.state = .pending then some v.gen else c.genSeen }

/-- A level notice at `x` with generation `g` settles one claim (R11). -/
def Ct.settleClaim (x : Level) (g : Byte) (ct : Ct) (sl : Slot) : Ct :=
  match ct.claimAt sl with
  | none => ct
  | some c =>
    if c.state = .pending ∧ c.level ≤ x then
      (ct.onClaim sl fun c => { c with state := .granted, genSeen := some g }).mark c.holder sl
    else if c.state = .granted ∧ x < c.level then
      (ct.onClaim sl fun c => { c with state := .pending }).mark c.holder sl
    else ct

/-- A level notice updates the view and settles the module's list from head to tail (R10, R11). -/
def Ct.takeLevel (ct : Ct) (m : Module) (x : Level) (g : Byte) : Ct :=
  ct.lists[m].foldl (Ct.settleClaim x g)
    { ct with views := ct.views.set m { level := x, gen := g, fault := false } }

/-- A restart start notice turns one GRANTED claim PENDING (R12). -/
def Ct.unsettleClaim (ct : Ct) (sl : Slot) : Ct :=
  match ct.claimAt sl with
  | none => ct
  | some c =>
    if c.state = .granted then (ct.onClaim sl fun c => { c with state := .pending }).mark c.holder sl else ct

/-- A restart start notice for module `m` (R12). -/
def Ct.takeRestartStart (ct : Ct) (m : Module) : Ct := ct.lists[m].foldl Ct.unsettleClaim ct

/-- The break reason a fault cause gives (Table 1-4). -/
def breakReasonOf : ModCause → BreakReason
  | .ackTimeout => .moduleFault
  | .readyLost => .moduleFault
  | .supplier => .supplierFault
  | .domain => .domainFault

/-- A fault notice updates the view and breaks every claim of the list from head to tail (R10, R14). -/
def Ct.takeFault (ct : Ct) (m : Module) (c : ModCause) : Ct :=
  ct.lists[m].foldl (fun ct sl => ct.die sl (.broken (breakReasonOf c)) true)
    { ct with views := modifyAt ct.views m fun v => { v with level := 0, fault := true } }

/-- The tick lowers one slot's lease remaining, or lapses its claim where the count runs out (R50, R51). -/
def Ct.countDown (ct : Ct) (sl : Slot) : Ct :=
  match ct.claimAt sl with
  | none => ct
  | some c =>
    match c.leaseLeft with
    | none => ct
    | some n =>
      if !c.state.live then ct
      else if n ≤ 1 then ct.die sl .lapsed true
      else ct.onClaim sl fun c => { c with leaseLeft := some (n - 1) }

/-- The tick at the claim table: every live leased claim, in ascending slot order (R50). -/
def Ct.takeTick (ct : Ct) : Ct := allSlots.foldl Ct.countDown ct

/-- The claim in slot `sl` runs out at the next tick. -/
def Ct.runsOut (ct : Ct) (sl : Slot) : Bool :=
  (ct.claimAt sl).any fun c => c.state.live && decide (c.leaseLeft = some 1)

/-- The level of the claim in a slot, 0 where it is FREE. -/
def Ct.levelAt (ct : Ct) (sl : Slot) : Level :=
  match ct.claimAt sl with
  | none => 0
  | some c => c.level

/-- The highest of a list of levels, 0 for none. -/
def highest (ls : List Level) : Level := ls.foldr max 0

/-- The highest level among the claims in module `m`'s list (R8). -/
def Ct.worked (ct : Ct) (m : Module) : Level := highest (ct.lists[m].map ct.levelAt)

/-- The end of an event that changed claims: claimed levels are worked out anew, and one notice is posted for each
module whose value differs from the one it held before the event (R8). -/
def State.relevel (s : State) : State :=
  { s with
    ct := { s.ct with claimed := Vector.ofFn s.ct.worked }
    links := { s.links with
      claimedLevels := s.links.claimedLevels ++
        (allModules.filter fun m => s.ct.worked m ≠ s.ct.claimed[m]).map fun m => (m, s.ct.worked m) } }

/-! ### Alert sets (R162) -/

/-- Unite a reason with the subject's reasons, keeping ascending subject order (R162). -/
def uniteAlert (subject : Subject) (reason : Reason) : List AlertEntry → List AlertEntry
  | [] => [{ subject := subject, reasons := reasonBit reason }]
  | a :: rest =>
    if subjectCode subject < subjectCode a.subject then
      { subject := subject, reasons := reasonBit reason } :: a :: rest
    else if subject = a.subject then { a with reasons := a.reasons ||| reasonBit reason } :: rest
    else a :: uniteAlert subject reason rest

/-- HINT_N of a port is asserted: notify is on and its change set or its alert set is not empty (R165; worked out, not
stored: log 19). -/
def State.hintAsserted (s : State) (p : Port) : Bool :=
  s.ports[p].notify && (!s.ct.ports[p].changes.isEmpty || !s.ports[p].alerts.isEmpty)

/-! ### Request slots and answer holders (chapter 10) -/

/-- Byte 1 of an answer written to port `p` now (R157). -/
def State.echoFor (s : State) (p : Port) (sequence : BitVec 4) : Byte :=
  echoByte sequence s.ports[p].overrun s.ports[p].frameMark (!s.ct.ports[p].changes.isEmpty)
    (!s.ports[p].alerts.isEmpty)

/-- The claim table writes an answer: it carries both marks and clears them (R156, R157). -/
def State.writeAnswer (s : State) (p : Port) (sequence : BitVec 4) (a : Answer) : State :=
  s.onPort p fun q =>
    { q with holder := a.bytes (s.echoFor p sequence), overrun := false, frameMark := false }

/-- The port controller writes WAITING: both marks stay set (R156, R157). -/
def State.writeWaiting (s : State) (p : Port) (sequence : BitVec 4) : State :=
  s.onPort p fun q => { q with holder := ({ status := .waiting } : Answer).bytes (s.echoFor p sequence) }

/-- The ports in the order that follows the last port served (R161). -/
def servingOrder (last : Port) : List Port := [last + 1, last + 2, last + 3, last]

/-- The request the intake arbiter takes next, with its port (R161). -/
def State.nextRequest (s : State) : Option (Port × Request) :=
  (servingOrder s.lastServed).findSome? fun p => s.ports[p].slot.map fun r => (p, r)

/-- The intake arbiter takes the request of port `p`: the slot is empty and the port is the last served (R155, R161). -/
def State.takeRequest (s : State) (p : Port) : State :=
  { s.onPort p fun q => { q with slot := none } with lastServed := p }

/-- The claim table carries out the next request as one event, where the arbiter's next request has an accepted code:
the body's changes, and then its answer (R26, R155). With no such request the event does not arise. -/
def State.serve (s : State) (accepts : Byte → Bool) (body : Port → Request → State → State × Answer) : State :=
  s.awake fun s =>
    match s.nextRequest with
    | none => s
    | some (p, r) =>
      if accepts r.code then
        let out := body p r (s.takeRequest p)
        out.1.writeAnswer p r.sequence out.2
      else s

/-- A control-port command: from HP1, HP2 and HP3 it is answered NOT_PERMITTED before any check (R158). -/
def controlOnly (body : Request → State → State × Answer) : Port → Request → State → State × Answer :=
  fun p r s => if p = 0 then body r s else (s, .refused .notPermitted)

/-! ### Time (chapter 3) -/

/-- µs units from the begin of the tick period in progress. -/
def Timebase.elapsed (t : Timebase) : Nat := t.quarterCount * Config.quarterUs + t.usCount

/-- µs units still to come before the tick period in progress ends. -/
def Timebase.left (t : Timebase) : Nat := t.periodLength * Config.quarterUs - t.elapsed

/-- The two counts after `d` more µs units of the period in progress (R46). -/
def Timebase.advance (t : Timebase) (d : Nat) : Timebase :=
  let total := t.elapsed + d
  { t with usCount := total % Config.quarterUs, quarterCount := total / Config.quarterUs }

/-- `d` µs units of the period in progress are counted by the timebase and by every running step timer (R45, R46). A
timer that has counted all its units stands at 0, and its event is due (DESIGN CHOICE, log 6: unsafe for claims about time
only). -/
def State.countUnits (s : State) (d : Nat) : State :=
  (s.onTimebase (·.advance d)).onEngines fun g =>
    { g with recs := Vector.ofFn fun e => { g.recs[e] with timer := g.recs[e].timer.map (· - d) } }

/-- µs units still to be counted by engine `e`'s step timer. -/
def State.timerLeft (s : State) (e : Domain) : Nat := s.engines.recs[e].timer.getD 0

end Sys2Proof.Machine
end

