-- ==== Sys2Proof/Machine/EngineOps.lean ====
section
/-! DEFINITION. The shared operations of the domain engines: physical levels, paths and steps (chapter 5), eligibility
and the taking of entries, the ramps of a switched domain (chapter 6), restarts (chapter 8), fault entry and the
release rule (chapter 9). -/

namespace Sys2Proof.Machine

/-! ### Records (5.1, 5.2) -/

/-- The physical level of a recorded state with its flags (Table 5-3). -/
def physLevel (st : PhysState) (armed woken : Bool) : Level :=
  match st with
  | .off => 0
  | .held => 0
  | .paused => if armed then 2 else 1
  | .running => if woken then 2 else 3
  | .fault => 0

def ModRec.level (r : ModRec) : Level := physLevel r.state r.armed r.woken

/-- The view that a state notice carries (R60). -/
def ModRec.view (r : ModRec) : DrView := { state := r.state, armed := r.armed, woken := r.woken }

/-- The physical state of a target (Table 4-3). -/
def Target.state : Target → PhysState
  | .off => .off
  | .paused => .paused
  | .pausedArmed => .paused
  | .runningWoken => .running
  | .running => .running

/-- The state with flags that a target asks for (Table 4-3). -/
def Target.view (t : Target) : DrView :=
  { state := t.state, armed := decide (t = .pausedArmed), woken := decide (t = .runningWoken) }

/-- The physical level of a target (Table 4-3). -/
def Target.level (t : Target) : Level := physLevel t.view.state t.view.armed t.view.woken

/-- The recorded state with its flags equals a target (R80). -/
def ModRec.stands (r : ModRec) (t : Target) : Bool := decide (r.view = t.view)

/-- The module's record at its engine. -/
def State.modAt (s : State) (m : Module) : ModRec := s.engines.mods[m]

/-- The directory record as last handed over to the engines (R74; DEDUCED which copy is read where, log 10). -/
def State.engineDir (s : State) (m : Module) : DirRecord := s.engines.dir[m]

/-- The engine that owns a module (R74). -/
def State.engineOf (s : State) (m : Module) : Domain := (s.engineDir m).domain

/-- The present dependents of a module in a directory (R58). -/
def dependentsIn (dir : Vector DirRecord 32) (m : Module) : List Module :=
  allModules.filter fun d => dir[d].present && decide (dir[d].supplier = some m)

/-- The supplier chain of a module (R58): at most `fuel` suppliers, nearest first. -/
def supplierChain (dir : Vector DirRecord 32) : Nat → Module → List Module
  | 0, _ => []
  | fuel + 1, m =>
    match dir[m].supplier with
    | none => []
    | some u => u :: supplierChain dir fuel u

/-- The state of a domain: D0 counts as ON at all times (R97). -/
def State.domState (s : State) (d : Domain) : DomState :=
  match switchedOf d with
  | none => .on
  | some x => s.engines.doms[x].state

/-- The alert FAULT goes to the owner port, and to HP0 when the owner is not HP0; the owner is read from the directory
as it stands when the alert is posted (R139). -/
def State.alertFault (s : State) (m : Module) : State :=
  let owner := s.dr.dir[m].owner
  let s := s.alert owner (.module m) .fault
  if owner = 0 then s else s.alert 0 (.module m) .fault

/-! ### Paths (5.4) -/

/-- What taking an entry calls for (Table 5-4). -/
inductive Plan where
  | up (steps : List LineStep)
  | down (steps : List LineStep)
  | flagOnly
  | nothing
  deriving DecidableEq, Repr

/-- Table 5-4: the transition for a recorded state and a target. -/
def planOf (r : ModRec) (t : Target) : Plan :=
  match r.state, t.state with
  | .off, .paused => .up [.clockOn, .hold, .clockOff, .resetRelease]
  | .off, .running => .up [.clockOn, .hold, .resetRelease]
  | .paused, .running => .up [.clockOn]
  | .paused, .paused => if r.stands t then .nothing else .flagOnly
  | .paused, .off => .down [.resetAssert]
  | .running, .paused => .down [.clockOff]
  | .running, .running => if r.stands t then .nothing else .flagOnly
  | .running, .off => .down [.resetAssert, .hold, .clockOff]
  | _, _ => .nothing

/-- Table 8-3: the path of a restart. -/
def restartPath : PhysState → List LineStep
  | .running => [.resetAssert, .hold, .resetRelease]
  | _ => [.resetAssert, .clockOn, .hold, .clockOff, .resetRelease]

/-! ### The queue (R80 to R82) -/

/-- Remove a module's entry from a queue. -/
def withoutEntry (m : Module) (q : List Entry) : List Entry := q.filter (·.module ≠ m)

/-- The module has an entry in engine `e`'s queue. -/
def State.hasEntry (s : State) (e : Domain) (m : Module) : Bool := s.engines.recs[e].queue.any (·.module = m)

/-- Append an entry at the tail of engine `e`'s queue. -/
def State.appendEntry (s : State) (e : Domain) (en : Entry) : State :=
  s.onRec e fun g => { g with queue := g.queue ++ [en] }

/-- The comparison at the end of a transition (R81), with the pending restart mark (R82): where the recorded state
differs from the wanted target, or a restart is pending, an entry joins at the tail. -/
def State.compareWanted (s : State) (e : Domain) (m : Module) : State :=
  let r := s.modAt m
  if r.stands r.wanted && r.pendingRestart.isNone then s
  else
    (s.appendEntry e { module := m, target := r.wanted, restart := r.pendingRestart }).onMod m
      fun r => { r with pendingRestart := none }

/-! ### Steps (5.6) -/

/-- The line action of a step's begin (Table 5-6). -/
def ModRec.driveStep (r : ModRec) : LineStep → ModRec
  | .clockOn => { r with clockOpen := true }
  | .clockOff => { r with clockOpen := false }
  | .resetAssert => { r with resetReleased := false }
  | .resetRelease => { r with resetReleased := true }
  | .hold => r

/-- A step completes at its begin: the reset steps always, a clock step where MRDY has its level already (R90, R91). -/
def completesAtBegin (mrdy : Bool) : LineStep → Bool
  | .clockOn => mrdy
  | .clockOff => !mrdy
  | .resetAssert => true
  | .resetRelease => true
  | .hold => false

/-- The time a step loads into the step timer (R90, R92). -/
def ModRec.stepTime (r : ModRec) : LineStep → Option Nat
  | .clockOn => some r.ackTimeout
  | .clockOff => some r.ackTimeout
  | .hold => some r.resetHold
  | .resetAssert => none
  | .resetRelease => none

/-- The recorded state after a step (Table 5-6). -/
def stateAfter : LineStep → PhysState → PhysState
  | .clockOn, .off => .held
  | .clockOn, .paused => .running
  | .clockOff, .held => .off
  | .clockOff, .running => .paused
  | .resetAssert, .running => .held
  | .resetAssert, .paused => .off
  | .resetRelease, .off => .paused
  | .resetRelease, .held => .running
  | _, st => st

/-- The record after a step's completion: state, flags (R85, R133) and generation (R77). The last step sets the flag of
the entry's target where the end state is the target's; every other completion leaves both flags clear. -/
def ModRec.afterStep (r : ModRec) (st : LineStep) (target : Target) (last : Bool) : ModRec :=
  let next := stateAfter st r.state
  { r with
    state := next
    armed := last && decide (target = .pausedArmed ∧ next = .paused)
    woken := last && decide (target = .runningWoken ∧ next = .running)
    gen := if st = .resetRelease then r.gen + 1 else r.gen }

/-- The notices of a change of record (R93): a level notice where the physical level changed, then a state notice
where the recorded state or flags changed. -/
def State.noticeChange (s : State) (e : Domain) (m : Module) (old new : ModRec) : State :=
  let s := if old.level = new.level then s else s.noticeCt e (.level m new.level new.gen)
  if old.view = new.view then s else s.noticeDr e (.state m new.view)

/-- A step begins: its line action, and its timer (R90 to R92). -/
def State.beginStep (s : State) (e : Domain) (m : Module) (st : LineStep) : State :=
  (s.onMod m (·.driveStep st)).onRec e fun g => { g with timer := (s.modAt m).stepTime st }

/-- A step completes (R93, 1 to 3). -/
def State.completeStep (s : State) (e : Domain) (m : Module) (st : LineStep) (target : Target) (last : Bool) :
    State :=
  let new := (s.modAt m).afterStep st target last
  ((s.onRec e fun g => { g with timer := none }).onMod m fun _ => new).noticeChange e m (s.modAt m) new

/-- A transition ends (R93, R81); a restart that reaches its end is done (R135). -/
def State.endTransition (s : State) (e : Domain) (m : Module) (restart : Option Port) : State :=
  let s :=
    match restart with
    | none => s
    | some p => (s.noticeCt e (.restartEnd m)).alert p (.module m) .restartDone
  ((s.onMod m fun r => { r with stepping := false }).onRec e fun g =>
    { g with work := .idle, timer := none }).compareWanted e m

/-- Run the steps of a path from the next step's begin: each step begins in the event in which the one before it
completes, until a step waits or the path ends (R83, R93). -/
def State.runSteps (e : Domain) (m : Module) (target : Target) (restart : Option Port) :
    List LineStep → State → State
  | [], s => s.endTransition e m restart
  | st :: rest, s =>
    let begun := s.beginStep e m st
    if completesAtBegin s.pins.mrdy[m] st then
      State.runSteps e m target restart rest (begun.completeStep e m st target rest.isEmpty)
    else
      begun.onRec e fun g =>
        { g with work := .transition { module := m, steps := st :: rest, target := target, restart := restart } }

/-- The step in flight of a transition completes, and the path goes on (R93). -/
def State.finishStep (s : State) (e : Domain) (t : Transition) : State :=
  match t.steps with
  | [] => s.endTransition e t.module t.restart
  | st :: rest =>
    State.runSteps e t.module t.target t.restart rest (s.completeStep e t.module st t.target rest.isEmpty)

/-- The transition in flight at engine `e`. -/
def State.inFlight (s : State) (e : Domain) : Option Transition :=
  match s.engines.recs[e].work with
  | .transition t => some t
  | .idle => none
  | .ramp => none

/-- The step in flight at engine `e`. -/
def State.stepInFlight (s : State) (e : Domain) : Option LineStep := (s.inFlight e).bind (·.steps.head?)

/-- A transition begins: the stepping mark is set and the first step begins (R86). -/
def State.startPath (s : State) (e : Domain) (m : Module) (target : Target) (restart : Option Port)
    (steps : List LineStep) : State :=
  State.runSteps e m target restart steps (s.onMod m fun r => { r with stepping := true })

/-! ### Eligibility (R87) -/

/-- An up-transition toward `t` is eligible (R87): the domain is powered, and the supplier stands high enough and is
not stepping. -/
def State.upEligible (s : State) (e : Domain) (m : Module) (t : Target) : Bool :=
  decide (s.domState e = .on ∨ s.domState e = .linger) &&
    match (s.engineDir m).supplier with
    | none => true
    | some u =>
      let r := s.modAt u
      !r.stepping &&
        (if t.state = .running then decide (r.state = .running)
         else decide (r.state = .paused ∨ r.state = .running))

/-- A down-transition toward `t` is eligible (R87): every present dependent stands low enough, is not stepping, and is
not RUNNING where the target is PAUSED. -/
def State.downEligible (s : State) (m : Module) (t : Target) : Bool :=
  (dependentsIn s.engines.dir m).all fun d =>
    let r := s.modAt d
    decide (r.level ≤ t.level) && !r.stepping && !(decide (t.state = .paused) && decide (r.state = .running))

/-- An entry is eligible as it is considered (R87); one whose restart flag is set always is. -/
def State.eligible (s : State) (e : Domain) (en : Entry) : Bool :=
  en.restart.isSome ||
    match planOf (s.modAt en.module) en.target with
    | .up _ => s.upEligible e en.module en.target
    | .down _ => s.downEligible en.module en.target
    | .flagOnly => true
    | .nothing => false

/-! ### Restarts (chapter 8) -/

/-- A module is out of OFF or stepping: HELD, PAUSED or RUNNING, or stepping mark yes (R128 check 6, R132 check 2). -/
def ModRec.up (r : ModRec) : Bool :=
  decide (r.state = .held ∨ r.state = .paused ∨ r.state = .running) || r.stepping

/-- The check at take of a restart (R132). -/
def State.restartPasses (s : State) (m : Module) (t : Target) : Bool :=
  decide ((s.modAt m).state = .paused ∨ (s.modAt m).state = .running) &&
    !((dependentsIn s.engines.dir m).any fun d => (s.modAt d).up) && decide (t ≠ .off)

/-- A restart fails: the end notice to the claim table, and RESTART_FAILED to the requester (R131, R132, R136). -/
def State.failRestart (s : State) (e : Domain) (m : Module) (p : Port) : State :=
  (s.noticeCt e (.restartEnd m)).alert p (.module m) .restartFailed

/-- A restart-flagged entry is taken (R132 to R134). -/
def State.takeRestart (s : State) (e : Domain) (m : Module) (t : Target) (p : Port) : State :=
  if s.restartPasses m t then
    (s.noticeCt e (.restartStart m)).startPath e m t (some p) (restartPath (s.modAt m).state)
  else
    let s := s.failRestart e m p
    if (s.modAt m).stands t then s else s.appendEntry e { module := m, target := t, restart := none }

/-! ### Taking an entry (R83, R84, R86) -/

/-- A flag-only transition completes in the event in which it is taken (R84). -/
def State.flagOnly (s : State) (e : Domain) (m : Module) (t : Target) : State :=
  let new := { s.modAt m with armed := t.view.armed, woken := t.view.woken }
  ((s.onMod m fun _ => new).noticeChange e m (s.modAt m) new).compareWanted e m

/-- Taking an up-entry in LINGER makes the domain ON and discards the linger count (R105). -/
def State.leaveLinger (s : State) (e : Domain) : State :=
  match switchedOf e with
  | none => s
  | some x =>
    s.onDom x fun r => if r.state = .linger then { r with state := .on, lingerCount := none } else r

/-- The engine takes an entry: it leaves the queue, and its transition or its restart begins (R86, R132). -/
def State.takeEntry (s : State) (e : Domain) (en : Entry) : State :=
  let s := s.onRec e fun g => { g with queue := withoutEntry en.module g.queue }
  match en.restart with
  | some p => s.takeRestart e en.module en.target p
  | none =>
    match planOf (s.modAt en.module) en.target with
    | .up steps => (s.leaveLinger e).startPath e en.module en.target none steps
    | .down steps => s.startPath e en.module en.target none steps
    | .flagOnly => s.flagOnly e en.module en.target
    | .nothing => s

/-! ### Ramps (chapter 6) -/

/-- RAMP_UP completes: isolation is released, the domain is ON and the engine's work is none (R102). -/
def State.completeRampUp (s : State) (x : SwDom) : State :=
  (s.onDom x fun r => { r with state := .on, isoReleased := true }).onRec x.domain fun g =>
    { g with work := .idle, timer := none }

/-- RAMP_UP begins (R101), and completes at once where DPG is already high (R102). -/
def State.beginRampUp (s : State) (x : SwDom) : State :=
  let begun :=
    (s.onDom x fun r => { r with state := .rampUp, dsw := true, isoReleased := false }).onRec x.domain fun g =>
      { g with work := .ramp, timer := some (s.engines.doms[x].rampTimeout * Config.rampUnitUs) }
  if s.pins.dpg[x] then begun.completeRampUp x else begun

/-- RAMP_DOWN completes to OFF (R107). -/
def State.completeRampDown (s : State) (x : SwDom) : State :=
  (s.onDom x fun r => { r with state := .off }).onRec x.domain fun g => { g with work := .idle, timer := none }

/-- RAMP_DOWN begins (R106), and completes at once where DPG is already low (R107). -/
def State.beginRampDown (s : State) (x : SwDom) : State :=
  let begun :=
    (s.onDom x fun r =>
      { r with state := .rampDown, dsw := false, isoReleased := false, lingerCount := none }).onRec x.domain
        fun g => { g with work := .ramp, timer := some (s.engines.doms[x].offTimeout * Config.rampUnitUs) }
  if s.pins.dpg[x] then begun else begun.completeRampDown x

/-- RAMP_UP is due: the domain is OFF with need, the queue holds an up-entry, and the work is none (R101). -/
def State.rampUpDue (s : State) (x : SwDom) : Bool :=
  let r := s.engines.doms[x]
  let g := s.engines.recs[x.domain]
  decide (r.state = .off) && r.need && g.queue.any (·.restart.isNone) && decide (g.work = .idle)

/-- The domain falls idle: ON, no need, every present module of it OFF or FAULT, no transition in flight (R103). -/
def State.idleDue (s : State) (x : SwDom) : Bool :=
  let r := s.engines.doms[x]
  decide (r.state = .on) && !r.need && (s.inFlight x.domain).isNone &&
    allModules.all fun m =>
      !((s.engineDir m).present && decide ((s.engineDir m).domain = x.domain)) ||
        decide ((s.modAt m).state = .off ∨ (s.modAt m).state = .fault)

/-- An idle domain leaves ON: LINGER with the count loaded, or RAMP_DOWN at linger 0 (R103). -/
def State.leaveOn (s : State) (x : SwDom) : State :=
  let l := s.engines.doms[x].linger
  if l = 0 then s.beginRampDown x
  else s.onDom x fun r => { r with state := .linger, lingerCount := some l }

/-! ### The end of an engine's event -/

/-- What the engine does next at the end of an event, if anything: a ramp that is due comes before the queue (R89,
R101); then the oldest eligible entry (R86); then an idle domain leaves ON (R103). -/
def State.engineMove (s : State) (e : Domain) : Option State :=
  if s.engines.recs[e].work ≠ .idle then none
  else if (switchedOf e).any s.rampUpDue then (switchedOf e).map s.beginRampUp
  else
    match s.engines.recs[e].queue.find? (s.eligible e) with
    | some en => some (s.takeEntry e en)
    | none => if (switchedOf e).any s.idleDue then (switchedOf e).map s.leaveOn else none

/-- The engine goes on until it has work in flight or nothing to do; `fuel` bounds the moves of one event (DEDUCED,
log 9). -/
def State.engineMoves (e : Domain) : Nat → State → State
  | 0, s => s
  | fuel + 1, s =>
    match s.engineMove e with
    | none => s
    | some s' => State.engineMoves e fuel s'

/-- The engine considers its queue and its domain at the end of an event (R86, R89, R101, R103). The engine at which the
event was takes its entry in the event itself, and another engine that the event lets take one does so afterwards, by
TAKE_ENTRY, where R88 lets either be served first (DESIGN CHOICE, log 22: unsafe). -/
def State.settleEngine (s : State) (e : Domain) : State :=
  State.engineMoves e (4 * s.engines.recs[e].queue.length + 8) s

/-! ### Fault entry (R95, R139) -/

/-- The record of a module that enters FAULT (R95). -/
def ModRec.faulted (r : ModRec) (c : ModCause) : ModRec :=
  { r with
    state := .fault, armed := false, woken := false, cause := some c, wanted := .off, stepping := false
    clockOpen := false, resetReleased := false, pendingRestart := none }

/-- The requester of a restart of module `m` that waits, is pending or is in progress at engine `e` (R136). -/
def State.restartStanding (s : State) (e : Domain) (m : Module) : Option Port :=
  (((s.engines.recs[e].queue.find? (·.module = m)).bind (·.restart)).or (s.modAt m).pendingRestart).or
    ((s.inFlight e).bind fun t => if t.module = m then t.restart else none)

/-- Module `m` enters FAULT at engine `e` with cause `c`: lines safe, entry removed, transition abandoned (R95); then
the fault notices, the FAULT alerts and, for a restart that was standing, its failure (R139, R136). The engine, which R95
(4) has consider its queue, does so after these notices, at the end of the event, so that the notices of an entry it then
takes follow them (DESIGN CHOICE, log 24: unsafe). -/
def State.faultModule (s : State) (e : Domain) (m : Module) (c : ModCause) : State :=
  let standing := s.restartStanding e m
  let s := (s.onMod m (·.faulted c)).onRec e fun g =>
    let g := { g with queue := withoutEntry m g.queue }
    match g.work with
    | .transition t => if t.module = m then { g with work := .idle, timer := none } else g
    | .idle => g
    | .ramp => g
  let s := ((s.noticeCt e (.fault m c)).noticeDr e (.fault m c)).alertFault m
  match standing with
  | none => s
  | some p => s.failRestart e m p

/-- A present module of engine `e` that is not in FAULT. -/
def State.faultable (s : State) (e : Domain) (m : Module) : Bool :=
  (s.engineDir m).present && decide ((s.engineDir m).domain = e) && decide ((s.modAt m).state ≠ .fault)

/-- A switched domain enters FAULT (R110): lines safe, ramp and linger ended; in the same event every present module
of it not in FAULT enters FAULT with cause DOMAIN, in ascending index, and HP0 is told (R143). -/
def State.faultDomain (s : State) (x : SwDom) (c : DomCause) : State :=
  let e := x.domain
  let s := s.onDom x fun r =>
    { r with state := .fault, cause := some c, lingerCount := none, dsw := false, isoReleased := false }
  let s := s.onRec e fun g => if g.work = .ramp then { g with work := .idle, timer := none } else g
  let s := allModules.foldl (fun s m => if s.faultable e m then s.faultModule e m .domain else s) s
  (s.onRec e fun g => { g with queue := [] }).alert 0 (.domain x) .domainFault

/-! ### Leaving FAULT (R144, R145) -/

/-- What the release rule decides (R144): the cause that holds the module, or none where it leaves FAULT. -/
def State.releaseOutcome (s : State) (dir : Vector DirRecord 32) (m : Module) : Option ModCause :=
  if s.domState dir[m].domain = .fault then some .domain
  else if (supplierChain dir 32 m).any fun u => decide ((s.modAt u).state = .fault) then some .supplier
  else none

/-- A clear reaches module `m`, which is in FAULT, at engine `e`: the release rule (R144), and the leaving of FAULT to
OFF with its two notices (R145). -/
def State.releaseModule (s : State) (e : Domain) (m : Module) : State :=
  match s.releaseOutcome s.engines.dir m with
  | some c => s.onMod m fun r => { r with cause := some c }
  | none =>
    ((s.onMod m fun r => { r with state := .off, armed := false, woken := false, cause := none }).noticeCt e
      (.level m 0 (s.modAt m).gen)).noticeDr e (.state m { state := .off, armed := false, woken := false })

/-! ### Postings taken at an engine -/

/-- The queue update of a target posting for a module with no transition in flight (R80). -/
def State.queueTarget (s : State) (e : Domain) (m : Module) (t : Target) : State :=
  let r := s.modAt m
  if s.hasEntry e m then
    s.onRec e fun g =>
      { g with queue := (g.queue.map fun en => if en.module = m then { en with target := t } else en).filter fun en =>
          !(decide (en.module = m) && en.restart.isNone && r.stands t) }
  else if r.stands t then s
  else s.appendEntry e { module := m, target := t, restart := none }

/-- A target posting reaches engine `e` (R79 to R81): discarded for a module not owned, absent or in FAULT. -/
def State.takeTarget (s : State) (e : Domain) (m : Module) (t : Target) : State :=
  if s.faultable e m then
    let s := s.onMod m fun r => { r with wanted := t }
    if (s.modAt m).stepping then s else s.queueTarget e m t
  else s

/-- A restart posting reaches engine `e` (R82, R131). -/
def State.takeRestartPosting (s : State) (e : Domain) (m : Module) (p : Port) : State :=
  if (s.engineDir m).present && decide ((s.engineDir m).domain = e) then
    if (s.modAt m).state = .fault then s.failRestart e m p
    else if (s.modAt m).stepping then s.onMod m fun r => { r with pendingRestart := some p }
    else if s.hasEntry e m then
      s.onRec e fun g =>
        { g with queue := g.queue.map fun en => if en.module = m then { en with restart := some p } else en }
    else s.appendEntry e { module := m, target := (s.modAt m).wanted, restart := some p }
  else s

/-- The record of a module that a SET MODULE hand-over moves or makes absent: OFF with safe lines, nothing wanted
(R74, R169; DESIGN CHOICE for a module that has left quiet, log 12: unsafe). -/
def ModRec.quieted (r : ModRec) : ModRec :=
  { r with
    state := .off, armed := false, woken := false, cause := none, wanted := .off, stepping := false
    clockOpen := false, resetReleased := false, pendingRestart := none }

/-- Engine `e` lets go of module `m`: its entry leaves the queue, and a transition of it in flight ends there
(R74; log 12). -/
def State.letGo (s : State) (e : Domain) (m : Module) : State :=
  s.onRec e fun g =>
    let g := { g with queue := withoutEntry m g.queue }
    match g.work with
    | .transition t => if t.module = m then { g with work := .idle, timer := none } else g
    | .idle => g
    | .ramp => g

/-- The engines take a SET MODULE hand-over (R74, R78, R111, R169). At its end the engine of the old domain considers its
queue first, and then the engine of the new one, where R88 lets either be served first (DESIGN CHOICE, log 22:
unsafe). -/
def State.takeModule (s : State) (m : Module) (r : DirRecord) : State :=
  let old := s.engineDir m
  let moved := old.domain ≠ r.domain
  let s := s.onEngines fun g => { g with dir := g.dir.set m r }
  let s :=
    if !r.present then (s.letGo old.domain m).onMod m (·.quieted)
    else if moved ∧ (s.modAt m).state ≠ .fault then (s.letGo old.domain m).onMod m (·.quieted)
    else s
  let s :=
    if r.present && !old.present then
      s.onMod m fun q =>
        { q with ackTimeout := Config.defaultAckTimeout, resetHold := Config.defaultResetHold
                 idleWindow := Config.defaultIdleWindow }
    else s
  let joins := r.present = true ∧ (old.present = false ∨ moved)
  let s :=
    if joins ∧ s.domState r.domain = .fault ∧ (s.modAt m).state ≠ .fault then s.faultModule r.domain m .domain else s
  (s.settleEngine old.domain).settleEngine r.domain

/-- The tick at engine `e` (R104): a linger count is lowered, and RAMP_DOWN begins where it runs out. -/
def State.takeEngineTick (s : State) (e : Domain) : State :=
  let s := s.onTicks fun t => { t with eng := t.eng.set e false }
  match switchedOf e with
  | none => s
  | some x =>
    match s.engines.doms[x].lingerCount with
    | none => s
    | some n =>
      if s.engines.doms[x].state = .linger then
        if n ≤ 1 then (s.beginRampDown x).settleEngine e
        else s.onDom x fun r => { r with lingerCount := some (n - 1) }
      else s

end Sys2Proof.Machine
end

