-- ==== Sys2Proof/Machine/ClaimNotices.lean ====
section
/-! DEFINITION. What reaches the claim table beside requests: the notices of the engines (R9 to R14) and the tick
(R48, R50, R51). Each notice command takes the oldest notice of one engine's stream; where that is no notice of the
command's kind the event does not arise and nothing changes (log 4). -/

namespace Sys2Proof.Machine

/-- The oldest notice of engine `e` to the claim table. -/
def State.ctNotice (s : State) (e : Domain) : Option CtNotice := s.links.toCt[e].head?

/-- LEVEL_NOTICE (R11). -/
def execLevelNotice (e : Domain) (s : State) : Res :=
  .next (s.awake fun s =>
    match s.ctNotice e with
    | some (.level m x g) => (s.dropCtNotice e).onCt fun ct => ct.takeLevel m x g
    | some (.restartStart _) => s
    | some (.restartEnd _) => s
    | some (.fault _ _) => s
    | none => s)

/-- RESTART_START_NOTICE (R12). -/
def execRestartStartNotice (e : Domain) (s : State) : Res :=
  .next (s.awake fun s =>
    match s.ctNotice e with
    | some (.restartStart m) => (s.dropCtNotice e).onCt fun ct => ct.takeRestartStart m
    | some (.level _ _ _) => s
    | some (.restartEnd _) => s
    | some (.fault _ _) => s
    | none => s)

/-- RESTART_END_NOTICE (R13). -/
def execRestartEndNotice (e : Domain) (s : State) : Res :=
  .next (s.awake fun s =>
    match s.ctNotice e with
    | some (.restartEnd m) =>
      (s.dropCtNotice e).onCt fun ct => { ct with restartMark := ct.restartMark.set m none }
    | some (.level _ _ _) => s
    | some (.restartStart _) => s
    | some (.fault _ _) => s
    | none => s)

/-- FAULT_NOTICE_AT_CT (R14, R8). -/
def execFaultNoticeAtCt (e : Domain) (s : State) : Res :=
  .next (s.awake fun s =>
    match s.ctNotice e with
    | some (.fault m c) => ((s.dropCtNotice e).onCt fun ct => ct.takeFault m c).relevel
    | some (.level _ _ _) => s
    | some (.restartStart _) => s
    | some (.restartEnd _) => s
    | none => s)

/-- The claim table takes the tick that waits for it (R50, R51, R8). -/
def State.takeCtTick (s : State) : State :=
  ((s.onTicks fun t => { t with ct := false }).onCt Ct.takeTick).relevel

/-- LEASE_COUNTDOWN (R50): the tick at the claim table, taken whole; a claim whose count runs out lapses in it. -/
def execLeaseCountdown (s : State) : Res :=
  .next (s.awake fun s => if s.ticks.ct then s.takeCtTick else s)

/-- LAPSE (R51): the tick at the claim table at which the claim in slot `sl` runs out. A lapse is part of the tick's one
event, so the whole tick is carried out (DEDUCED, log 8: safe); where no tick waits, or the claim does not run out at it,
nothing changes. -/
def execLapse (sl : Slot) (s : State) : Res :=
  .next (s.awake fun s => if s.ticks.ct && s.ct.runsOut sl then s.takeCtTick else s)

end Sys2Proof.Machine
end

