-- ==== Sys2Proof/Machine/Claims.lean ====
section
/-! DEFINITION. The claim requests (chapter 2): PLACE, CHANGE, RENEW, RELEASE, QUERY CLAIM, BROWSE, BROWSE NEXT and
TAKE CHANGE. Each is served from the request slot the intake arbiter takes (R26, R161). -/

namespace Sys2Proof.Machine

/-- A module that PLACE and RESTART refuse FAULTED: fault mark set, or its domain in FAULT (R29 check 3, R128 check 3). -/
def State.refusesFaulted (s : State) (m : Module) : Bool :=
  s.ct.views[m].fault || decide (s.domState s.ct.dir[m].domain = .fault)

/-- PLACE (R29, R30, R5). -/
def placeBody (p : Port) (r : Request) (s : State) : State × Answer :=
  match moduleOf (r.byte 2), claimLevelOf (r.byte 3) with
  | some m, some l =>
    if !s.ct.dir[m].present then (s, .refused .noModule)
    else if s.refusesFaulted m then (s, .refused .faulted)
    else if l = 2 ∧ s.ct.dir[m].wakeUsed = false then (s, .refused .badArgument)
    else if s.ct.ports[p].quota ≤ s.ct.ports[p].count then (s, .refused .quota)
    else
      match s.ct.freeSlot? with
      | none => (s, .refused .full)
      | some sl =>
        let v := s.ct.views[m]
        let st : ClaimState := if !v.fault && decide (l ≤ v.level) then .granted else .pending
        ((s.onCt fun ct => ct.fill sl p m l (r.half 4).toNat (r.half 6)).relevel,
          { status := .ok, b2 := byteOf sl.val, b3 := s.ct.slots[sl].gen, b4 := stateByte st, b5 := v.gen })
  | _, _ => (s, .refused .badArgument)

def execPlace (s : State) : Res := .next (s.serve (· == codePlace) placeBody)

/-- The handle in bytes 2 and 3 of a request, resolved (R4). -/
def State.handle (s : State) (r : Request) : Option (Slot × Claim) := s.ct.resolve (r.byte 2) (r.byte 3)

/-- The answer to a CHANGE that passed its checks, for the claim as it stands after it (R34). -/
def changeAnswer (v : ModView) (c : Claim) : Answer :=
  { status := .ok
    b2 := claimByte (claimStateCode c.state) 0 (levelCode c.level) c.genSeen.isSome
    b3 := c.genSeen.getD 0
    b4 := v.gen }

/-- CHANGE (R32 to R34). -/
def changeBody (p : Port) (r : Request) (s : State) : State × Answer :=
  match s.handle r with
  | none => (s, .refused .stale)
  | some (sl, c) =>
    if c.holder ≠ p then (s, .refused .notPermitted)
    else if !c.state.live then (s, .notLive c.state)
    else
      match claimLevelOf (r.byte 4) with
      | none => (s, .refused .badArgument)
      | some l =>
        if l = 2 ∧ s.ct.dir[c.module].wakeUsed = false then (s, .refused .badArgument)
        else if l = c.level then (s, changeAnswer s.ct.views[c.module] c)
        else
          let ct := s.ct.changeLevel sl l
          ((s.onCt fun _ => ct).relevel, changeAnswer s.ct.views[c.module] ((ct.claimAt sl).getD c))

def execChange (s : State) : Res := .next (s.serve (· == codeChange) changeBody)

/-- RENEW (R36, R37). -/
def renewBody (p : Port) (r : Request) (s : State) : State × Answer :=
  match s.handle r with
  | none => (s, .refused .stale)
  | some (sl, c) =>
    if c.holder ≠ p then (s, .refused .notPermitted)
    else if !c.state.live then (s, .notLive c.state)
    else if c.leaseLength = 0 then (s, .refused .badArgument)
    else
      let operand := (r.half 4).toNat
      let n := if operand = 0 then c.leaseLength else operand
      (s.onCt fun ct => ct.onClaim sl fun c => { c with leaseLength := n, leaseLeft := some n },
        { status := .ok, b2 := stateByte c.state, b3 := highByte n, b4 := lowByte n, b5 := highByte n
          b6 := lowByte n })

def execRenew (s : State) : Res := .next (s.serve (· == codeRenew) renewBody)

/-- RELEASE (R38). -/
def releaseBody (p : Port) (r : Request) (s : State) : State × Answer :=
  match s.handle r with
  | none => (s, .refused .stale)
  | some (sl, c) =>
    if c.holder ≠ p then (s, .refused .notPermitted)
    else
      ((s.onCt fun ct => ct.freeSlot sl).relevel,
        { status := .ok, b2 := reasonByte c.state, b3 := byteOf c.module.val, b4 := s.ct.slots[sl].gen + 1 })

def execRelease (s : State) : Res := .next (s.serve (· == codeRelease) releaseBody)

/-- The lease value of QUERY CLAIM: the remaining ticks of a live leased claim, the length of a dead one, 0 for a
pinned claim (R40). -/
def Claim.leaseValue (c : Claim) : Nat :=
  if c.leaseLength = 0 then 0 else if c.state.live then c.leaseLeft.getD 0 else c.leaseLength

/-- QUERY CLAIM (R40). -/
def queryClaimBody (_ : Port) (r : Request) (s : State) : State × Answer :=
  match s.handle r with
  | none => (s, .refused .stale)
  | some (_, c) =>
    (s, { status := .ok
          b2 := claimByte (claimStateCode c.state) (breakReasonCode c.state) (levelCode c.level) false
          b3 := holderByte c.holder c.module
          b4 := highByte c.leaseValue, b5 := lowByte c.leaseValue
          b6 := highByte c.tag.toNat, b7 := lowByte c.tag.toNat })

def execQueryClaim (s : State) : Res := .next (s.serve (· == codeQueryClaim) queryClaimBody)

/-- BROWSE (R41, R23). -/
def browseBody (p : Port) (r : Request) (s : State) : State × Answer :=
  match moduleOf (r.byte 2) with
  | none => (s, .refused .badArgument)
  | some m =>
    (s.onCt fun ct => ct.onPort p fun q => { q with cursor := some { module := m, after := none } },
      { status := .ok, b2 := byteOf m.val, b3 := byteOf s.ct.lists[m].length, b4 := byteOf s.ct.claimed[m].val })

def execBrowse (s : State) : Res := .next (s.serve (· == codeBrowse) browseBody)

/-- The claim following a cursor's position in its module's list as it stands (R23). -/
def Ct.following (ct : Ct) (c : Cursor) : Option Slot :=
  match c.after with
  | none => ct.lists[c.module].head?
  | some sl => successor ct.lists[c.module] sl

/-- The answer of a BROWSE NEXT that returns the claim in slot `sl` (R42). -/
def browseAnswer (sl : Slot) (gen : Byte) (c : Claim) : Answer :=
  { status := .ok, b2 := byteOf sl.val, b3 := gen
    b4 := claimByte (claimStateCode c.state) 0 (levelCode c.level) false
    b5 := byteOf c.holder.val, b6 := highByte c.tag.toNat, b7 := lowByte c.tag.toNat }

/-- BROWSE NEXT (R42). -/
def browseNextBody (p : Port) (_ : Request) (s : State) : State × Answer :=
  match s.ct.ports[p].cursor with
  | none => (s, { status := .empty })
  | some cur =>
    match (s.ct.following cur).bind fun sl => (s.ct.claimAt sl).map fun c => (sl, c) with
    | none => (s, { status := .empty })
    | some (sl, c) =>
      (s.onCt fun ct => ct.onPort p fun q => { q with cursor := some { module := cur.module, after := some sl } },
        browseAnswer sl s.ct.slots[sl].gen c)

def execBrowseNext (s : State) : Res := .next (s.serve (· == codeBrowseNext) browseNextBody)

/-- The answer of a TAKE CHANGE that returns the claim in slot `sl` (R43). -/
def changeReport (sl : Slot) (gen : Byte) (c : Claim) : Answer :=
  { status := .ok, b2 := byteOf sl.val, b3 := gen
    b4 := claimByte (claimStateCode c.state) (breakReasonCode c.state) (levelCode c.level) c.genSeen.isSome
    b5 := byteOf c.module.val, b6 := c.genSeen.getD 0 }

/-- TAKE CHANGE (R43): the lowest slot of the requester's change set is removed and reported. -/
def takeChangeBody (p : Port) (_ : Request) (s : State) : State × Answer :=
  match s.ct.ports[p].changes with
  | [] => (s, { status := .empty })
  | sl :: rest =>
    (s.onCt fun ct => ct.onPort p fun q => { q with changes := rest },
      match s.ct.claimAt sl with
      | none => { status := .ok, b2 := byteOf sl.val, b3 := s.ct.slots[sl].gen }
      | some c => changeReport sl s.ct.slots[sl].gen c)

def execTakeChange (s : State) : Res := .next (s.serve (· == codeTakeChange) takeChangeBody)

end Sys2Proof.Machine
end

