-- ==== Sys2Proof/Machine/ResolverOps.lean ====
section
/-! DEFINITION. The shared operations of the demand resolver: effective levels (4.4), the wake watch and wake needs
(chapter 7), targets and domain needs (4.5, 4.6), and the end of every event at the DR, where they are worked out and
what changed is posted. -/

namespace Sys2Proof.Machine

/-- The module takes part in demand: present, and not FAULT in the DR's view (R61, R65). -/
def Dr.demands (d : Dr) (m : Module) : Bool := d.dir[m].present && decide (d.views[m].state ≠ .fault)

/-- Effective levels (R61), worked out from the highest index down: a dependent's index is above its supplier's. -/
def Dr.worked (d : Dr) : Vector Level 32 :=
  allModules.foldr
    (fun (m : Module) (acc : Vector Level 32) =>
      acc.set m
        (if d.demands m then
           max d.claimed[m] (highest ((dependentsIn d.dir m).map fun u => acc[u]))
         else 0))
    (Vector.replicate 32 0)

/-- A module is watched (R116), given the effective levels of the event. -/
def Dr.watches (d : Dr) (eff : Vector Level 32) (m : Module) : Bool :=
  d.dir[m].present && d.dir[m].wakeUsed && decide (d.views[m].state ≠ .fault) &&
    (d.views[m].armed || d.views[m].woken || (decide (d.views[m].state = .running) && decide (eff[m] = 2)))

/-- Wake needs (R120), worked out from the highest index down. -/
def Dr.wakeNeeds (d : Dr) : Vector Bool 32 :=
  allModules.foldr
    (fun (m : Module) (acc : Vector Bool 32) =>
      acc.set m
        (decide (d.eff[m] = 2) &&
          (d.wakeReq[m] || d.idle[m].isSome ||
            (dependentsIn d.dir m).any fun u => d.views[u].woken || acc[u])))
    (Vector.replicate 32 false)

/-- The watch at the end of an event (R116): a watch that begins reads MWAKE, a watch that ends clears the wake
request and discards the idle count. -/
def Dr.rewatch (d : Dr) (mwake : Vector Bool 32) : Dr :=
  { d with
    watched := Vector.ofFn fun m => d.watches d.eff m
    wakeReq := Vector.ofFn fun m =>
      if d.watches d.eff m then (if d.watched[m] then d.wakeReq[m] else mwake[m])
      else (if d.watched[m] then false else d.wakeReq[m])
    idle := Vector.ofFn fun m => if d.watched[m] && !d.watches d.eff m then none else d.idle[m] }

/-- Table 4-3: the target of a module from its effective level and its wake need. -/
def targetOf (eff : Level) (wakeNeed : Bool) : Target :=
  if eff = 0 then .off
  else if eff = 1 then .paused
  else if eff = 2 then (if wakeNeed then .runningWoken else .pausedArmed)
  else .running

/-- The target of a module (R65). -/
def Dr.target (d : Dr) (m : Module) : Target := targetOf d.eff[m] d.wakeNeed[m]

/-- Keep-on of a domain, always clear for D0 (R70). -/
def Dr.keptOn (d : Dr) (x : Domain) : Bool :=
  match switchedOf x with
  | none => false
  | some w => d.keepOn[w]

/-- Domain need (R68). -/
def Dr.needs (d : Dr) (x : Domain) : Bool :=
  d.keptOn x || allModules.any fun m => d.dir[m].present && decide (d.dir[m].domain = x) && decide (1 ≤ d.eff[m])

/-- Everything worked out at the end of an event: effective levels, then the watch, then wake needs, then domain needs
(R61, R116, R120, R68). -/
def Dr.workOut (d : Dr) (mwake : Vector Bool 32) : Dr :=
  let d := ({ d with eff := d.worked } : Dr).rewatch mwake
  let d := { d with wakeNeed := d.wakeNeeds }
  { d with need := Vector.ofFn d.needs }

/-- A target is owed: the module is in demand and its target differs from the posted one (R65). -/
def Dr.owed (d : Dr) (m : Module) : Bool := d.demands m && decide (d.target m ≠ d.posted[m])

/-- The target postings owed, in ascending module index, each with its engine (R65, R66). -/
def Dr.targetPostings (d : Dr) : List (Domain × DrPosting) :=
  (allModules.filter d.owed).map fun m => (d.dir[m].domain, .target m (d.target m))

/-- The switched domains in ascending order. -/
def allSwitched : List SwDom := List.finRange 3

/-- The need postings owed (R68). -/
def Dr.needPostings (d : Dr) : List (Domain × DrPosting) :=
  (allSwitched.filter fun x => d.need[x.domain] ≠ d.postedNeed[x]).map fun x =>
    (x.domain, .need d.need[x.domain])

/-- What was owed is recorded as posted (R65, R68). -/
def Dr.recordPosted (d : Dr) : Dr :=
  { d with
    posted := Vector.ofFn fun m => if d.owed m then d.target m else d.posted[m]
    postedNeed := Vector.ofFn fun x => d.need[SwDom.domain x] }

/-- Post a list of postings, each to its engine, in order (R66). -/
def State.postAll (s : State) (ps : List (Domain × DrPosting)) : State :=
  ps.foldl (fun s p => s.demandEngine p.1 p.2) s

/-- The end of an event at the DR: everything is worked out once; then targets, needs and the event's supplier notices
are posted, in this order to each engine (R61, R65, R66, R68, R140, R146). -/
def State.finishDr (s : State) (supplierNotices : List (Domain × DrPosting)) : State :=
  let d := s.dr.workOut s.pins.mwake
  ({ s with dr := d.recordPosted }).postAll (d.targetPostings ++ d.needPostings ++ supplierNotices)

/-- A notice for each present dependent of `m`, in ascending index, to the dependent's engine (R140). R146 gives the
supplier-clear notices of one event no order among themselves; they go out in ascending index too (DESIGN CHOICE,
log 23: unsafe). -/
def Dr.toDependents (d : Dr) (m : Module) (notice : Module → DrPosting) : List (Domain × DrPosting) :=
  (dependentsIn d.dir m).map fun u => (d.dir[u].domain, notice u)

/-- A claimed-level notice at the DR (R59). -/
def State.takeClaimed (s : State) (m : Module) (l : Level) : State :=
  (s.onDr fun d => { d with claimed := d.claimed.set m l }).finishDr []

/-- A state notice at the DR (R60); where the module leaves FAULT its dependents are sent supplier-clear notices
(R64, R146). -/
def State.takeState (s : State) (m : Module) (v : DrView) : State :=
  let leaves := decide (s.dr.views[m].state = .fault) && decide (v.state ≠ .fault)
  (s.onDr fun d => { d with views := d.views.set m v }).finishDr
    (if leaves then s.dr.toDependents m .supplierClear else [])

/-- A fault notice at the DR (R60, R63, R140); one for a module already shown in FAULT changes nothing (DEDUCED,
log 16: safe). -/
def State.takeDrFault (s : State) (m : Module) : State :=
  if s.dr.views[m].state = .fault then s
  else
    (s.onDr fun d =>
      { d with views := d.views.set m { state := .fault, armed := false, woken := false }
               posted := d.posted.set m .off }).finishDr (s.dr.toDependents m .supplierFault)

/-- The module has a present supplier that the DR's view shows in FAULT, or that has a FAULT module on its own supplier
chain (R57 step 3). -/
def Dr.chainFaulted (d : Dr) (m : Module) : Bool :=
  d.dir[m].supplier.any (fun u => d.dir[u].present) &&
    (supplierChain d.dir 32 m).any fun u => decide (d.views[u].state = .fault)

/-- A SET MODULE hand-over at the DR (R57): the record is written; a module made absent has posted target OFF; a
module that leaves a domain is posted OFF there; and a module under a faulted supplier chain is sent a supplier-fault
notice. The OFF goes to the old engine before the event's other targets there, in the order of R57's steps and not at
the module's place in R66's index order (DESIGN CHOICE, log 21: unsafe). -/
def State.takeModuleDr (s : State) (m : Module) (r : DirRecord) : State :=
  let old := s.dr.dir[m].domain
  let leaves := r.present = true ∧ old ≠ r.domain ∧ s.dr.posted[m] ≠ .off
  let s := if leaves then s.demandEngine old (.target m .off) else s
  let s := s.onDr fun d =>
    { d with dir := d.dir.set m r
             posted := if r.present = false ∨ leaves then d.posted.set m .off else d.posted }
  s.finishDr (if r.present && s.dr.chainFaulted m then [(r.domain, .supplierFault m)] else [])

/-- A rise of MWAKE taken at the DR (R117, R118); the pin already stands high. -/
def State.takeWakeRise (s : State) (m : Module) : State :=
  let d := s.dr
  if d.watched[m] then
    (s.onDr fun d => { d with wakeReq := d.wakeReq.set m true, idle := d.idle.set m none }).finishDr []
  else if d.dir[m].present && d.dir[m].wakeUsed &&
      decide (d.views[m].state = .off ∨ d.views[m].state = .held ∨
        (d.views[m].state = .paused ∧ d.views[m].armed = false)) then
    s.alert d.dir[m].owner (.module m) .strayWake
  else s

/-- A fall of MWAKE taken at the DR (R119): on a watched module with its mark set, the mark is cleared and the idle
count loaded with the idle window of the module's engine record. -/
def State.takeWakeFall (s : State) (m : Module) : State :=
  if s.dr.watched[m] && s.dr.wakeReq[m] then
    (s.onDr fun d =>
      { d with wakeReq := d.wakeReq.set m false, idle := d.idle.set m (some (s.modAt m).idleWindow) }).finishDr []
  else s

/-- One tick of an idle count: lowered by one, or stopped where it runs out (R123). -/
def lowerIdle : Option Nat → Option Nat
  | none => none
  | some n => if n ≤ 1 then none else some (n - 1)

/-- The tick at the DR (R123): every running idle count is lowered; wake needs follow. -/
def State.takeDrTick (s : State) : State :=
  ((s.onTicks fun t => { t with dr := false }).onDr fun d =>
    { d with idle := Vector.ofFn fun m => lowerIdle d.idle[m] }).finishDr []

end Sys2Proof.Machine
end

