-- ==== Sys2Proof/Machine/Queries.lean ====
section
/-! DEFINITION. QUERY MODULE (R71) and QUERY DOMAIN (R114): each field as it stands at its owning block. -/

namespace Sys2Proof.Machine

/-- QUERY MODULE byte 2: bit 7 present, bit 6 wake used, bits 5 to 4 domain, bits 3 to 2 owner (Table 10-6). -/
def moduleByte2 (d : DirRecord) : Byte :=
  BitVec.ofBool d.present ++ BitVec.ofBool d.wakeUsed ++ BitVec.ofNat 2 d.domain.val ++
    BitVec.ofNat 2 d.owner.val ++ (0 : BitVec 2)

/-- Byte 3: bit 7 supplier present, bits 4 to 0 supplier. -/
def moduleByte3 (d : DirRecord) : Byte :=
  match d.supplier with
  | none => 0
  | some u => BitVec.ofBool true ++ (0 : BitVec 2) ++ BitVec.ofNat 5 u.val

/-- Byte 4: bits 2 to 0 physical state, bit 3 ARMED, bit 4 WOKEN, bit 5 stepping, bits 7 to 6 effective level. -/
def moduleByte4 (r : ModRec) (eff : Level) : Byte :=
  levelCode eff ++ BitVec.ofBool r.stepping ++ BitVec.ofBool r.woken ++ BitVec.ofBool r.armed ++
    physStateCode r.state

/-- Byte 5: bits 2 to 0 fault cause, bits 4 to 3 restart port, bit 5 restart outstanding, bits 7 to 6 claimed level. -/
def moduleByte5 (cause : Option ModCause) (mark : Option Port) (claimed : Level) : Byte :=
  levelCode claimed ++ BitVec.ofBool mark.isSome ++ BitVec.ofNat 2 (mark.getD 0).val ++ modCauseCode cause

/-- The answer of QUERY MODULE (Table 4-4): directory and claim fields from the CT, recorded state from the engine,
effective level from the DR. -/
def State.moduleReport (s : State) (m : Module) : Answer :=
  { status := .ok
    b2 := moduleByte2 s.ct.dir[m]
    b3 := moduleByte3 s.ct.dir[m]
    b4 := moduleByte4 (s.modAt m) s.dr.eff[m]
    b5 := moduleByte5 (s.modAt m).cause s.ct.restartMark[m] s.ct.claimed[m]
    b6 := byteOf s.ct.lists[m].length
    b7 := (s.modAt m).gen }

/-- QUERY MODULE (R71). -/
def queryModuleBody (_ : Port) (r : Request) (s : State) : State × Answer :=
  match moduleOf (r.byte 2) with
  | none => (s, .refused .badArgument)
  | some m => (s, s.moduleReport m)

def execQueryModule (s : State) : Res := .next (s.serve (· == codeQueryModule) queryModuleBody)

/-- How many present modules of domain `d`, by the claim table's directory copy, pass the test (R114, R149). -/
def State.countModules (s : State) (d : Domain) (which : ModRec → Bool) : Nat :=
  (allModules.filter fun m =>
    s.ct.dir[m].present && decide (s.ct.dir[m].domain = d) && which (s.modAt m)).length

/-- QUERY DOMAIN byte 2: bits 2 to 0 state, bit 3 power-good, bits 5 to 4 fault cause, bit 6 need, bit 7 keep-on. -/
def domainByte2 (st : DomState) (powerGood : Bool) (cause : Option DomCause) (need keepOn : Bool) : Byte :=
  BitVec.ofBool keepOn ++ BitVec.ofBool need ++ domCauseCode cause ++ BitVec.ofBool powerGood ++ domStateCode st

/-- The answer of QUERY DOMAIN (Table 6-4); D0 counts as ON, power-good high, with no fault and no linger (R97). -/
def State.domainReport (s : State) (d : Domain) : Answer :=
  { status := .ok
    b2 :=
      domainByte2 (s.domState d)
        (match switchedOf d with
         | none => true
         | some x => s.pins.dpg[x])
        (match switchedOf d with
         | none => none
         | some x => s.engines.doms[x].cause)
        s.dr.need[d] (s.dr.keptOn d)
    b3 := byteOf (s.countModules d fun r => decide (r.state = .held ∨ r.state = .paused ∨ r.state = .running))
    b4 := byteOf (s.countModules d fun r => decide (r.state = .fault))
    b5 :=
      byteOf
        (match switchedOf d with
         | none => 0
         | some x => s.engines.doms[x].lingerCount.getD 0)
    b6 := byteOf d.val }

/-- QUERY DOMAIN (R114). -/
def queryDomainBody (_ : Port) (r : Request) (s : State) : State × Answer :=
  match domainOf (r.byte 2) with
  | none => (s, .refused .badArgument)
  | some d => (s, s.domainReport d)

def execQueryDomain (s : State) : Res := .next (s.serve (· == codeQueryDomain) queryDomainBody)

end Sys2Proof.Machine
end

