-- ==== Sys2Proof/Machine/Control.lean ====
section
/-! DEFINITION. RESTART (chapter 8) and CLEAR MODULE FAULT (chapter 9), and the control port's commands: configuration
(chapter 11), SET TICK (R47), EVICT and RETIRE ALL (11.4, 11.5), CLEAR DOMAIN FAULT (R149). Each hands what it changes
elsewhere to the owning block (R57, R74). -/

namespace Sys2Proof.Machine

/-- The permission check of RESTART (R129): owner port, HP0, or holder of every live claim in the module's list. -/
def State.mayRestart (s : State) (p : Port) (m : Module) : Bool :=
  decide (p = s.ct.dir[m].owner) || decide (p = 0) ||
    s.ct.lists[m].all fun sl => (s.ct.claimAt sl).all fun c => decide (c.holder = p)

/-- RESTART (R128 to R130). -/
def restartBody (p : Port) (r : Request) (s : State) : State × Answer :=
  match moduleOf (r.byte 2) with
  | none => (s, .refused .badArgument)
  | some m =>
    if !s.ct.dir[m].present then (s, .refused .noModule)
    else if s.refusesFaulted m then (s, .refused .faulted)
    else if s.ct.restartMark[m].isSome then (s, .refused .busy)
    else if !decide ((s.modAt m).state = .paused ∨ (s.modAt m).state = .running) then (s, .refused .notRunning)
    else if (dependentsIn s.ct.dir m).any fun d => (s.modAt d).up then (s, .refused .dependents)
    else if !s.mayRestart p m then (s, .refused .contested)
    else
      ((s.onCt fun ct => { ct with restartMark := ct.restartMark.set m (some p) }).postEngine s.ct.dir[m].domain
          (.restart m p),
        { status := .ok, b2 := byteOf m.val, b3 := (physStateCode (s.modAt m).state).setWidth 8
          b4 := (s.modAt m).gen })

def execRestart (s : State) : Res := .next (s.serve (· == codeRestart) restartBody)

/-- A cause that CLEAR MODULE FAULT clears (R147 check 4). -/
def clearable (r : ModRec) : Bool :=
  decide (r.state = .fault) && (decide (r.cause = some .ackTimeout) || decide (r.cause = some .readyLost))

/-- CLEAR MODULE FAULT (R147): the answer gives the outcome of the release rule on the states read now. -/
def clearModuleFaultBody (p : Port) (r : Request) (s : State) : State × Answer :=
  match moduleOf (r.byte 2) with
  | none => (s, .refused .badArgument)
  | some m =>
    if !s.ct.dir[m].present then (s, .refused .noModule)
    else if ¬(p = s.ct.dir[m].owner ∨ p = 0) then (s, .refused .notPermitted)
    else if !clearable (s.modAt m) then (s, .refused .notFaulted)
    else
      let outcome := s.releaseOutcome s.ct.dir m
      (s.postEngine s.ct.dir[m].domain (.moduleClear m),
        { status := .ok, b2 := byteOf m.val
          b3 := (modCauseCode (s.modAt m).cause).setWidth 8
          b4 := (physStateCode (if outcome.isSome then .fault else .off)).setWidth 8
          b5 := (modCauseCode outcome).setWidth 8
          b6 := (s.modAt m).gen })

def execClearModuleFault (s : State) : Res := .next (s.serve (· == codeClearModuleFault) clearModuleFaultBody)

/-- The record that the operand bytes of SET MODULE spell (Table 10-4): `none` where a field is out of range. -/
def recordOf (r : Request) : Option (Module × DirRecord) :=
  match moduleOf (r.byte 2), domainOf (r.byte 4), portOf ((r.byte 3).extractLsb' 4 4 |>.setWidth 8),
    supplierOf (r.byte 5) with
  | some m, some d, some p, some u =>
    some (m, { present := (r.byte 3).getLsbD 0, wakeUsed := (r.byte 3).getLsbD 1, domain := d, supplier := u, owner := p })
  | _, _, _, _ => none

/-- The module is quiet (R168 check 2): OFF, not stepping, no entry and no pending restart mark at its engine; no slot
that is not FREE names it, and no restart is outstanding at the CT. -/
def State.quiet (s : State) (m : Module) : Bool :=
  let r := s.modAt m
  decide (r.state = .off) && !r.stepping && !s.hasEntry (s.engineOf m) m && r.pendingRestart.isNone &&
    allSlots.all (fun sl => !(s.ct.claimAt sl).any fun c => decide (c.module = m)) && s.ct.restartMark[m].isNone

/-- The supplier check of SET MODULE (R168 check 3). -/
def State.supplierFits (s : State) (m : Module) (d : DirRecord) : Bool :=
  d.supplier.all fun u => decide (u < m) && (!d.present || s.ct.dir[u].present)

/-- SET MODULE (R168, R169): the CT's copy is written, and the record is handed to the DR and to the engine of the
domain the module leaves, and of the one it joins. -/
def setModuleBody (r : Request) (s : State) : State × Answer :=
  match recordOf r with
  | none => (s, .refused .badArgument)
  | some (m, d) =>
    if !s.quiet m then (s, .refused .inUse)
    else if !s.supplierFits m d then (s, .refused .badArgument)
    else if !d.present && !(dependentsIn s.ct.dir m).isEmpty then (s, .refused .badArgument)
    else
      let old := s.ct.dir[m].domain
      let s := s.onCt fun ct => { ct with dir := ct.dir.set m d }
      let s := s.onLinks fun l => { l with modulesToDr := l.modulesToDr ++ [(m, d)] }
      let s := s.postEngine old (.setModule m d old)
      (if d.domain = old then s else s.postEngine d.domain (.setModule m d old),
        { status := .ok, b2 := byteOf m.val })

def execSetModule (s : State) : Res := .next (s.serve (· == codeSetModule) (controlOnly setModuleBody))

/-- A timeout operand 1 to 1023. -/
def timeoutFits (n : Nat) : Bool := decide (1 ≤ n ∧ n ≤ 1023)

/-- SET MODULE TIMING (R170). -/
def setModuleTimingBody (r : Request) (s : State) : State × Answer :=
  match moduleOf (r.byte 2) with
  | none => (s, .refused .badArgument)
  | some m =>
    if !s.ct.dir[m].present then (s, .refused .noModule)
    else if !(timeoutFits (r.half 3).toNat && decide (1 ≤ (r.byte 5).toNat) && decide (1 ≤ (r.byte 6).toNat)) then
      (s, .refused .badArgument)
    else
      (s.postEngine s.ct.dir[m].domain
          (.setTiming m (r.half 3).toNat (r.byte 5).toNat (r.byte 6).toNat),
        { status := .ok, b2 := byteOf m.val })

def execSetModuleTiming (s : State) : Res :=
  .next (s.serve (· == codeSetModuleTiming) (controlOnly setModuleTimingBody))

/-- SET DOMAIN (R171). -/
def setDomainBody (r : Request) (s : State) : State × Answer :=
  match swDomOf (r.byte 2) with
  | none => (s, .refused .badArgument)
  | some x =>
    if !(timeoutFits (r.half 3).toNat && timeoutFits (r.half 5).toNat) then (s, .refused .badArgument)
    else
      (s.postEngine x.domain (.setDomain x (r.half 3).toNat (r.half 5).toNat (r.byte 7).toNat),
        { status := .ok, b2 := r.byte 2 })

def execSetDomain (s : State) : Res := .next (s.serve (· == codeSetDomain) (controlOnly setDomainBody))

/-- SET KEEP-ON (R172). -/
def setKeepOnBody (r : Request) (s : State) : State × Answer :=
  match swDomOf (r.byte 2), switchOf (r.byte 3) with
  | some x, some on =>
    (s.onLinks fun l => { l with keepOnToDr := l.keepOnToDr ++ [(x, on)] },
      { status := .ok, b2 := r.byte 2, b3 := boolByte on, b4 := boolByte s.dr.need[x.domain] })
  | _, _ => (s, .refused .badArgument)

def execSetKeepOn (s : State) : Res := .next (s.serve (· == codeSetKeepOn) (controlOnly setKeepOnBody))

/-- SET QUOTA (R173). -/
def setQuotaBody (r : Request) (s : State) : State × Answer :=
  match portOf (r.byte 2) with
  | none => (s, .refused .badArgument)
  | some p =>
    if 128 < (r.byte 3).toNat then (s, .refused .badArgument)
    else
      (s.onCt fun ct => ct.onPort p fun q => { q with quota := (r.byte 3).toNat },
        { status := .ok, b2 := r.byte 2, b3 := r.byte 3, b4 := byteOf s.ct.ports[p].count })

def execSetQuota (s : State) : Res := .next (s.serve (· == codeSetQuota) (controlOnly setQuotaBody))

/-- SET TICK (R47): the CT keeps the divider and hands it to the timebase. -/
def setTickBody (r : Request) (s : State) : State × Answer :=
  let n := (r.byte 2).toNat
  if 1 ≤ n ∧ n ≤ 64 then
    ((s.onCt fun ct => { ct with divider := n }).onLinks fun l => { l with dividers := l.dividers ++ [n] },
      { status := .ok, b2 := byteOf n, b3 := byteOf s.ct.divider })
  else (s, .refused .badArgument)

def execSetTick (s : State) : Res := .next (s.serve (· == codeSetTick) (controlOnly setTickBody))

/-- EVICT (R174): a live claim dies into EVICTED, marked unless HP0 holds it (R21); a dead claim's slot is freed. -/
def evictBody (r : Request) (s : State) : State × Answer :=
  match s.handle r with
  | none => (s, .refused .stale)
  | some (sl, c) =>
    if c.state.live then
      ((s.onCt fun ct => ct.die sl .evicted (decide (c.holder ≠ 0))).relevel,
        { status := .ok, b2 := stateByte .evicted, b3 := holderByte c.holder c.module, b4 := s.ct.slots[sl].gen })
    else
      ((s.onCt fun ct => ct.freeSlot sl).relevel,
        { status := .ok, b2 := reasonByte c.state, b3 := holderByte c.holder c.module
          b4 := s.ct.slots[sl].gen + 1 })

def execEvict (s : State) : Res := .next (s.serve (· == codeEvict) (controlOnly evictBody))

/-- RETIRE ALL (R176, R17). -/
def retireAllBody (_ : Request) (s : State) : State × Answer :=
  let freed := s.ct.countClaims fun _ => true
  ((s.onCt fun ct =>
      let ct := ct.freeAll fun _ => true
      { ct with ports := Vector.ofFn fun p => { ct.ports[p] with cursor := none } }).relevel,
    { status := .ok, b2 := byteOf freed })

def execRetireAll (s : State) : Res := .next (s.serve (· == codeRetireAll) (controlOnly retireAllBody))

/-- CLEAR DOMAIN FAULT (R149). -/
def clearDomainFaultBody (r : Request) (s : State) : State × Answer :=
  match domainOf (r.byte 2) with
  | none => (s, .refused .badArgument)
  | some d =>
    match switchedOf d with
    | none => (s, .refused .notFaulted)
    | some x =>
      if s.engines.doms[x].state ≠ .fault then (s, .refused .notFaulted)
      else if s.pins.dpg[x] then (s, .refused .powerPresent)
      else
        (s.postEngine d (.domainClear x),
          { status := .ok, b2 := r.byte 2
            b3 := (domCauseCode s.engines.doms[x].cause).setWidth 8
            b4 := byteOf (s.countModules d fun q => decide (q.state = .fault ∧ q.cause = some .domain)) })

def execClearDomainFault (s : State) : Res :=
  .next (s.serve (· == codeClearDomainFault) (controlOnly clearDomainFaultBody))

end Sys2Proof.Machine
end

