-- ==== Sys2Proof/Machine/Resolver.lean ====
section
/-! DEFINITION. The events taken at the demand resolver (Table 4-1): claimed-level notices, state and fault notices, the
SET MODULE and SET KEEP-ON hand-overs, and the tick. -/

namespace Sys2Proof.Machine

/-- Take the oldest element with key `k` out of a list of keyed elements. -/
def takeKey {α β : Type} [DecidableEq α] (k : α) : List (α × β) → Option (β × List (α × β))
  | [] => none
  | (a, b) :: rest =>
    if a = k then some (b, rest) else (takeKey k rest).map fun out => (out.1, (a, b) :: out.2)

/-- CLAIMED_LEVEL_NOTICE (R59): the oldest notice of module `m`; those of different modules come in any order
(DEDUCED for the other streams of the CT, log 13: safe). -/
def execClaimedLevelNotice (m : Module) (s : State) : Res :=
  .next (s.awake fun s =>
    match takeKey m s.links.claimedLevels with
    | none => s
    | some (l, rest) => (s.onLinks fun k => { k with claimedLevels := rest }).takeClaimed m l)

/-- The oldest notice of engine `e` to the demand resolver. -/
def State.drNotice (s : State) (e : Domain) : Option DrNotice := s.links.toDr[e].head?

/-- STATE_NOTICE (R60). -/
def execStateNotice (e : Domain) (s : State) : Res :=
  .next (s.awake fun s =>
    match s.drNotice e with
    | some (.state m v) => (s.dropDrNotice e).takeState m v
    | some (.fault _ _) => s
    | none => s)

/-- FAULT_NOTICE_AT_DR (R63). -/
def execFaultNoticeAtDr (e : Domain) (s : State) : Res :=
  .next (s.awake fun s =>
    match s.drNotice e with
    | some (.fault m _) => (s.dropDrNotice e).takeDrFault m
    | some (.state _ _) => s
    | none => s)

/-- SET_MODULE_HANDOVER_DR (R57). -/
def execSetModuleHandoverDr (m : Module) (s : State) : Res :=
  .next (s.awake fun s =>
    match takeKey m s.links.modulesToDr with
    | none => s
    | some (r, rest) => (s.onLinks fun k => { k with modulesToDr := rest }).takeModuleDr m r)

/-- SET_KEEP_ON_HANDOVER (R69). -/
def execSetKeepOnHandover (x : SwDom) (s : State) : Res :=
  .next (s.awake fun s =>
    match takeKey x s.links.keepOnToDr with
    | none => s
    | some (on, rest) =>
      ((s.onLinks fun k => { k with keepOnToDr := rest }).onDr fun d =>
        { d with keepOn := d.keepOn.set x on }).finishDr [])

/-- IDLE_COUNT_TICK (R123): the tick at the demand resolver. -/
def execIdleCountTick (s : State) : Res :=
  .next (s.awake fun s => if s.ticks.dr then s.takeDrTick else s)

/-- IDLE_COUNT_RUNS_OUT (R123): the tick at the demand resolver at which module `m`'s idle count runs out; the tick is
one event, so the whole of it is carried out (DEDUCED, log 8: safe). -/
def execIdleCountRunsOut (m : Module) (s : State) : Res :=
  .next (s.awake fun s => if s.ticks.dr && decide (s.dr.idle[m] = some 1) then s.takeDrTick else s)

end Sys2Proof.Machine
end

