-- ==== Sys2Proof/Machine/Timebase.lean ====
section
/-! DEFINITION. The timebase (chapter 3): the passing of µs units and the ticks they bring (R45, R46, R48), TICK, and the
SET TICK hand-over (R47). -/

namespace Sys2Proof.Machine

/-- Each tick is taken once at each user before the next is issued (R48): users that still have one take it (DESIGN
CHOICE of their order, log 7: safe). -/
def State.takeWaitingTicks (s : State) : State :=
  let s := if s.ticks.ct then s.takeCtTick else s
  let s := if s.ticks.dr then s.takeDrTick else s
  (List.finRange 4).foldl (fun s (e : Domain) => if s.ticks.eng[e] then s.takeEngineTick e else s) s

/-- The timebase issues a tick: the counts return to 0, the next period begins with the length TICKDIV has now, and
the tick sets out for its users (R46, R48). -/
def State.issueTick (s : State) : State :=
  { s with
    timebase := { s.timebase with usCount := 0, quarterCount := 0, periodLength := s.timebase.tickDiv }
    ticks := { ct := true, dr := true, eng := Vector.replicate 4 true } }

/-- The µs units left in the period in progress pass, and the tick is issued (R46). -/
def State.endPeriod (s : State) : State :=
  let s := s.takeWaitingTicks
  (s.countUnits s.timebase.left).issueTick

/-- `d` µs units pass, through as many ends of periods as they reach; `fuel` bounds those ends. -/
def State.passUnits : Nat → Nat → State → State
  | 0, _, s => s
  | fuel + 1, d, s =>
    if d < s.timebase.left then s.countUnits d else State.passUnits fuel (d - s.timebase.left) s.endPeriod

/-- `d` µs units pass (R45): every unit is counted, and each period that ends among them issues its tick (R46). -/
def State.elapse (s : State) (d : Nat) : State := State.passUnits d d s

/-- TICK (R46): the period in progress runs to its end, and the timebase issues a tick. -/
def execTick (s : State) : Res := .next (s.awake State.endPeriod)

/-- SET_TICK_HANDOVER (R47): TICKDIV takes the oldest waiting value; the period in progress keeps its length. -/
def execSetTickHandover (s : State) : Res :=
  .next (s.awake fun s =>
    match s.links.dividers with
    | [] => s
    | n :: rest =>
      (s.onLinks fun l => { l with dividers := rest }).onTimebase fun t => { t with tickDiv := n })

end Sys2Proof.Machine
end

