-- ==== Sys2Proof/Machine/Engine.lean ====
section
/-! DEFINITION. The events taken at the domain engines: postings of the DR and of the CT, the taking of entries, the
completion and the timeout of steps, what an edge of MRDY does, and the clears (chapters 5, 8 and 9). Each posting command
takes the oldest posting of one stream; where that is of another kind the event does not arise (log 4). -/

namespace Sys2Proof.Machine

/-- The oldest posting of the demand resolver to engine `e`. -/
def State.drPosting (s : State) (e : Domain) : Option DrPosting := s.links.drToEngine[e].head?

/-- The oldest posting of the claim table to engine `e`. -/
def State.ctPosting (s : State) (e : Domain) : Option CtPosting := s.links.ctToEngine[e].head?

/-- TARGET_POSTING_AT_ENGINE (R79 to R81). -/
def execTargetPostingAtEngine (e : Domain) (s : State) : Res :=
  .next (s.awake fun s =>
    match s.drPosting e with
    | some (.target m t) => ((s.dropDrPosting e).takeTarget e m t).settleEngine e
    | some (.need _) => s
    | some (.supplierFault _) => s
    | some (.supplierClear _) => s
    | none => s)

/-- RESTART_POSTING (R82, R131). -/
def execRestartPosting (e : Domain) (s : State) : Res :=
  .next (s.awake fun s =>
    match s.ctPosting e with
    | some (.restart m p) => ((s.dropCtPosting e).takeRestartPosting e m p).settleEngine e
    | some (.setModule _ _ _) => s
    | some (.setTiming _ _ _ _) => s
    | some (.setDomain _ _ _ _) => s
    | some (.moduleClear _) => s
    | some (.domainClear _) => s
    | none => s)

/-- TAKE_ENTRY (R86 to R88): the engine considers its queue and takes its oldest eligible entry. -/
def execTakeEntry (e : Domain) (s : State) : Res := .next (s.awake fun s => s.settleEngine e)

/-- HOLD (R92): the step timer counts what is left of the reset hold, and the HOLD step in flight completes. -/
def execHold (e : Domain) (s : State) : Res :=
  .next (s.awake fun s =>
    match s.inFlight e with
    | none => s
    | some t =>
      if t.steps.head? = some .hold then ((s.elapse (s.timerLeft e)).finishStep e t).settleEngine e else s)

/-- A rise of MRDY taken at the module's engine: it completes a waiting CLOCK_ON, and is ignored otherwise (R90, R94). -/
def State.takeReadyRise (s : State) (m : Module) : State :=
  let e := s.engineOf m
  match s.inFlight e with
  | none => s
  | some t =>
    if s.faultable e m = true ∧ t.module = m ∧ t.steps.head? = some .clockOn then (s.finishStep e t).settleEngine e
    else s

/-- A CLOCK_OFF step of module `m` is in flight at engine `e`. -/
def State.stoppingClock (s : State) (e : Domain) (m : Module) : Option Transition :=
  (s.inFlight e).bind fun t => if t.module = m ∧ t.steps.head? = some .clockOff then some t else none

/-- A fall of MRDY taken at the module's engine: it completes a waiting CLOCK_OFF; else with the gate open it is a loss
of ready; else it is ignored (R90, R94). -/
def State.takeReadyFall (s : State) (m : Module) : State :=
  let e := s.engineOf m
  if s.faultable e m then
    match s.stoppingClock e m with
    | some t => (s.finishStep e t).settleEngine e
    | none => if (s.modAt m).clockOpen then (s.faultModule e m .readyLost).settleEngine e else s
  else s

/-- ACK_TIMEOUT (R95): the step timer counts what is left of the ack timeout, and the module whose clock step is in
flight enters FAULT. -/
def execAckTimeout (e : Domain) (s : State) : Res :=
  .next (s.awake fun s =>
    match s.inFlight e with
    | none => s
    | some t =>
      if t.steps.head? = some .clockOn ∨ t.steps.head? = some .clockOff then
        ((s.elapse (s.timerLeft e)).faultModule e t.module .ackTimeout).settleEngine e
      else s)

/-- SUPPLIER_FAULT_NOTICE (R141). -/
def execSupplierFaultNotice (e : Domain) (s : State) : Res :=
  .next (s.awake fun s =>
    match s.drPosting e with
    | some (.supplierFault m) =>
      let s := s.dropDrPosting e
      (if s.faultable e m then s.faultModule e m .supplier else s).settleEngine e
    | some (.target _ _) => s
    | some (.need _) => s
    | some (.supplierClear _) => s
    | none => s)

/-- SUPPLIER_CLEAR_NOTICE (R146). -/
def execSupplierClearNotice (e : Domain) (s : State) : Res :=
  .next (s.awake fun s =>
    match s.drPosting e with
    | some (.supplierClear m) =>
      let s := s.dropDrPosting e
      (if (s.engineDir m).present = true ∧ (s.engineDir m).domain = e ∧ (s.modAt m).state = .fault ∧
          (s.modAt m).cause = some .supplier then s.releaseModule e m else s).settleEngine e
    | some (.target _ _) => s
    | some (.need _) => s
    | some (.supplierFault _) => s
    | none => s)

/-- MODULE_CLEAR (R148): the release rule, on a module in FAULT with cause ACK_TIMEOUT or READY_LOST. -/
def execModuleClear (e : Domain) (s : State) : Res :=
  .next (s.awake fun s =>
    match s.ctPosting e with
    | some (.moduleClear m) =>
      let s := s.dropCtPosting e
      (if (s.modAt m).state = .fault ∧
          ((s.modAt m).cause = some .ackTimeout ∨ (s.modAt m).cause = some .readyLost) then s.releaseModule e m
       else s).settleEngine e
    | some (.setModule _ _ _) => s
    | some (.setTiming _ _ _ _) => s
    | some (.setDomain _ _ _ _) => s
    | some (.restart _ _) => s
    | some (.domainClear _) => s
    | none => s)

/-- SET_MODULE_HANDOVER_ENGINE (R74): the hand-over at the head of engine `e`'s stream. One that moves a module is taken
by both engines in one event, so it must stand at the head of the other engine's stream as well (DEDUCED, log 17:
safe). -/
def execSetModuleHandoverEngine (e : Domain) (s : State) : Res :=
  .next (s.awake fun s =>
    match s.ctPosting e with
    | some (.setModule m r old) =>
      if s.ctPosting old = s.ctPosting e ∧ s.ctPosting r.domain = s.ctPosting e then
        let s := s.dropCtPosting old
        (if r.domain = old then s else s.dropCtPosting r.domain).takeModule m r
      else s
    | some (.setTiming _ _ _ _) => s
    | some (.setDomain _ _ _ _) => s
    | some (.restart _ _) => s
    | some (.moduleClear _) => s
    | some (.domainClear _) => s
    | none => s)

/-- SET_MODULE_TIMING_HANDOVER (R78). -/
def execSetModuleTimingHandover (e : Domain) (s : State) : Res :=
  .next (s.awake fun s =>
    match s.ctPosting e with
    | some (.setTiming m ack hold idle) =>
      (s.dropCtPosting e).onMod m fun r => { r with ackTimeout := ack, resetHold := hold, idleWindow := idle }
    | some (.setModule _ _ _) => s
    | some (.setDomain _ _ _ _) => s
    | some (.restart _ _) => s
    | some (.moduleClear _) => s
    | some (.domainClear _) => s
    | none => s)

end Sys2Proof.Machine
end

