-- ==== Sys2Proof/Machine/Domains.lean ====
section
/-! DEFINITION. The events of the switched domains at their engines (chapter 6): need postings, the SET DOMAIN
hand-over, what an edge of DPG does, the ramp and off timeouts, the linger tick, and the domain clear (R150). -/

namespace Sys2Proof.Machine

/-- NEED_POSTING (R100, R105). -/
def execNeedPosting (x : SwDom) (s : State) : Res :=
  .next (s.awake fun s =>
    match s.drPosting x.domain with
    | some (.need b) =>
      ((s.dropDrPosting x.domain).onDom x fun r =>
        if b = true ∧ r.state = .linger then { r with need := b, state := .on, lingerCount := none }
        else { r with need := b }).settleEngine x.domain
    | some (.target _ _) => s
    | some (.supplierFault _) => s
    | some (.supplierClear _) => s
    | none => s)

/-- SET_DOMAIN_HANDOVER (R113). -/
def execSetDomainHandover (x : SwDom) (s : State) : Res :=
  .next (s.awake fun s =>
    match s.ctPosting x.domain with
    | some (.setDomain y ramp off linger) =>
      (s.dropCtPosting x.domain).onDom y fun r =>
        { r with rampTimeout := ramp, offTimeout := off, linger := linger }
    | some (.setModule _ _ _) => s
    | some (.setTiming _ _ _ _) => s
    | some (.restart _ _) => s
    | some (.moduleClear _) => s
    | some (.domainClear _) => s
    | none => s)

/-- A fall of DPG waits behind the edge being taken (R45). -/
def State.powerFallWaits (s : State) (x : SwDom) : Bool := decide ({ pin := .dpg x, up := false } ∈ s.pins.edges)

/-- A rise of DPG taken at the domain's engine: it completes RAMP_UP, and is ignored in every other state (R102, R107,
R109). A rise that DPG fell after before it was taken completes no ramp: the ramp waits for the next rise (R102). -/
def State.takePowerRise (s : State) (x : SwDom) : State :=
  if s.engines.doms[x].state = .rampUp ∧ s.powerFallWaits x = false then
    (s.completeRampUp x).settleEngine x.domain
  else s

/-- A fall of DPG taken at the domain's engine: it completes RAMP_DOWN; in ON and LINGER it is a loss of power; in every
other state it is ignored (R102, R107, R109). -/
def State.takePowerFall (s : State) (x : SwDom) : State :=
  match s.engines.doms[x].state with
  | .rampDown => (s.completeRampDown x).settleEngine x.domain
  | .on => (s.faultDomain x .powerLost).settleEngine x.domain
  | .linger => (s.faultDomain x .powerLost).settleEngine x.domain
  | .off => s
  | .rampUp => s
  | .fault => s

/-- RAMP_TIMEOUT (R102): the step timer counts what is left of the ramp timeout, and the domain enters FAULT. -/
def execRampTimeout (x : SwDom) (s : State) : Res :=
  .next (s.awake fun s =>
    if s.engines.doms[x].state = .rampUp then
      ((s.elapse (s.timerLeft x.domain)).faultDomain x .noPowerGood).settleEngine x.domain
    else s)

/-- OFF_TIMEOUT (R107). -/
def execOffTimeout (x : SwDom) (s : State) : Res :=
  .next (s.awake fun s =>
    if s.engines.doms[x].state = .rampDown then
      ((s.elapse (s.timerLeft x.domain)).faultDomain x .stuckOn).settleEngine x.domain
    else s)

/-- LINGER_TICK (R104): the tick at engine `e`. -/
def execLingerTick (e : Domain) (s : State) : Res :=
  .next (s.awake fun s => if s.ticks.eng[e] then s.takeEngineTick e else s)

/-- LINGER_RUNS_OUT (R104): the tick at the engine of domain `x` at which its linger count runs out (DEDUCED, log 8:
safe). -/
def execLingerRunsOut (x : SwDom) (s : State) : Res :=
  .next (s.awake fun s =>
    if s.ticks.eng[x.domain] && decide (s.engines.doms[x].state = .linger) &&
        decide (s.engines.doms[x].lingerCount = some 1) then s.takeEngineTick x.domain else s)

/-- The modules of domain `x` in FAULT with cause DOMAIN, each let through the release rule in ascending index
(R150). -/
def State.releaseDomainModules (s : State) (x : SwDom) : State :=
  allModules.foldl
    (fun s m =>
      if (s.engineDir m).present = true ∧ (s.engineDir m).domain = x.domain ∧ (s.modAt m).state = .fault ∧
          (s.modAt m).cause = some .domain then s.releaseModule x.domain m else s) s

/-- DOMAIN_CLEAR (R150, R111). -/
def execDomainClear (x : SwDom) (s : State) : Res :=
  .next (s.awake fun s =>
    match s.ctPosting x.domain with
    | some (.domainClear y) =>
      let s := s.dropCtPosting x.domain
      if s.engines.doms[y].state = .fault then
        (((s.onDom y fun r => { r with state := .off, cause := none }).releaseDomainModules y)).settleEngine x.domain
      else s
    | some (.setModule _ _ _) => s
    | some (.setTiming _ _ _ _) => s
    | some (.setDomain _ _ _ _) => s
    | some (.restart _ _) => s
    | some (.moduleClear _) => s
    | none => s)

end Sys2Proof.Machine
end

