-- ==== Sys2Proof/Machine/Edges.lean ====
section
/-! DEFINITION. The edges of the input pins MRDY, MWAKE and DPG (R90, R94, R102, R107, R109, R117, R119), those that wait
while REFCLK stands still (R45), and what a step does while no command waits (log 5). -/

namespace Sys2Proof.Machine

/-- The level of an input pin. -/
def Pins.level (p : Pins) : Pin → Bool
  | .mrdy m => p.mrdy[m]
  | .mwake m => p.mwake[m]
  | .dpg x => p.dpg[x]

/-- The inputs with one pin at another level. -/
def Pins.put (p : Pins) (up : Bool) : Pin → Pins
  | .mrdy m => { p with mrdy := p.mrdy.set m up }
  | .mwake m => { p with mwake := p.mwake.set m up }
  | .dpg x => { p with dpg := p.dpg.set x up }

/-- The board drives a pin: where its level changes, the edge waits for the block that takes it (R45). While RESET_N is
asserted the level changes and no edge is taken (R96, R127; DESIGN CHOICE, log 11: safe). -/
def State.drive (s : State) (g : Edge) : State :=
  if s.pins.level g.pin = g.up then s
  else s.onPins fun p => { p.put g.up g.pin with edges := if s.inReset then p.edges else p.edges ++ [g] }

/-- The block that watches the pin takes an edge: the engine for MRDY and DPG, the demand resolver for MWAKE. -/
def State.takeEdge (s : State) (g : Edge) : State :=
  match g.pin with
  | .mrdy m => if g.up then s.takeReadyRise m else s.takeReadyFall m
  | .mwake m => if g.up then s.takeWakeRise m else s.takeWakeFall m
  | .dpg x => if g.up then s.takePowerRise x else s.takePowerFall x

/-- An edge that waits leaves the list of waiting edges and is taken, with the edges that came after it still waiting
(R45, R102). -/
def State.takeWaiting (s : State) (g : Edge) : State :=
  (s.onPins fun q => { q with edges := q.edges.erase g }).takeEdge g

/-- The edges of one pin that wait are taken, in the order in which they came (R45). DESIGN CHOICE (log 11): the pin has
changed, and the edge is taken, in one event. -/
def State.takeEdges (s : State) (p : Pin) : State :=
  s.awake fun s => (s.pins.edges.filter (·.pin = p)).foldl State.takeWaiting s

/-- MRDY_RISE (R90). -/
def execMrdyRise (m : Module) (s : State) : Res :=
  .next ((s.drive { pin := .mrdy m, up := true }).takeEdges (.mrdy m))

/-- MRDY_FALL (R94). -/
def execMrdyFall (m : Module) (s : State) : Res :=
  .next ((s.drive { pin := .mrdy m, up := false }).takeEdges (.mrdy m))

/-- MWAKE_RISE (R117). -/
def execMwakeRise (m : Module) (s : State) : Res :=
  .next ((s.drive { pin := .mwake m, up := true }).takeEdges (.mwake m))

/-- MWAKE_FALL (R119). -/
def execMwakeFall (m : Module) (s : State) : Res :=
  .next ((s.drive { pin := .mwake m, up := false }).takeEdges (.mwake m))

/-- DPG_RISE (R102). -/
def execDpgRise (x : SwDom) (s : State) : Res :=
  .next ((s.drive { pin := .dpg x, up := true }).takeEdges (.dpg x))

/-- DPG_FALL (R109). -/
def execDpgFall (x : SwDom) (s : State) : Res :=
  .next ((s.drive { pin := .dpg x, up := false }).takeEdges (.dpg x))

/-- With no command waiting (DESIGN CHOICE, logs 5 and 20): REFCLK stops or starts, where that is to come; else, where
REFCLK runs and RESET_N is released, the oldest edge that waits is taken, and where none waits one µs unit passes. -/
def State.idle (s : State) : State :=
  match s.pins.refclkAhead with
  | b :: rest => s.onPins fun p => { p with refclk := b, refclkAhead := rest }
  | [] =>
    s.awake fun s =>
      match s.pins.edges with
      | g :: _ => s.takeWaiting g
      | [] => s.elapse 1

end Sys2Proof.Machine
end

