-- ==== Sys2Proof/Machine/Ports.lean ====
section
/-! DEFINITION. The host ports (chapter 10): frames on the wire (R152 to R154), alert postings (R162), and the requests
that act on a port controller: BAD_COMMAND (R158), TAKE ALERT (R163), SET NOTIFY (R164), DETACH (R166). -/

namespace Sys2Proof.Machine

/-- FRAME_BEGIN: HCS_N falls. The port takes a fixed copy of the answer holder to shift out (R152); a frame that begins
while RESET_N is asserted is ignored as a whole (R154). With HCS_N low already there is no fall (DESIGN CHOICE, log 18:
safe). -/
def execFrameBegin (p : Port) (s : State) : Res :=
  .next (s.onPort p fun q =>
    match q.wire with
    | .deselected => { q with wire := if s.inReset then .ignored else .frame q.holder }
    | .frame _ => q
    | .ignored => q)

/-- The end of a frame that was not ignored, classified by its complete bytes; the first matching case applies
(R153). -/
def State.classify (s : State) (p : Port) (bytes : List Byte) : State :=
  match bytes with
  | [] => s
  | code :: _ =>
    if code = codeNop then s
    else if bytes.length < frameLength code then s.onPort p fun q => { q with frameMark := true }
    else if s.ports[p].slot.isSome then s.onPort p fun q => { q with overrun := true }
    else
      let r := requestOf bytes
      (s.onPort p fun q => { q with slot := some r }).writeWaiting p r.sequence

/-- FRAME_END: HCS_N rises (R153). The end of an ignored frame classifies nothing (R154); with HCS_N high already there
is no rise. -/
def execFrameEnd (p : Port) (bits : List Bool) (s : State) : Res :=
  .next
    (match s.ports[p].wire with
    | .deselected => s
    | .ignored => s.onPort p fun q => { q with wire := .deselected }
    | .frame _ => (s.onPort p fun q => { q with wire := .deselected }).classify p (completeBytes bits))

/-- BAD_COMMAND: a request whose code names no command (R158). -/
def execBadCommand (s : State) : Res :=
  .next (s.serve (fun code => !namesCommand code) fun _ _ s => (s, .refused .badCommand))

/-- TAKE ALERT (R163). -/
def takeAlertBody (p : Port) (_ : Request) (s : State) : State × Answer :=
  match s.ports[p].alerts with
  | [] => (s, { status := .empty })
  | a :: rest =>
    (s.onPort p fun q => { q with alerts := rest },
      { status := .ok, b2 := byteOf (subjectCode a.subject), b3 := a.reasons })

def execTakeAlert (s : State) : Res := .next (s.serve (· == codeTakeAlert) takeAlertBody)

/-- SET NOTIFY (R164). -/
def setNotifyBody (p : Port) (r : Request) (s : State) : State × Answer :=
  match switchOf (r.byte 2) with
  | none => (s, .refused .badArgument)
  | some on => (s.onPort p fun q => { q with notify := on }, { status := .ok, b2 := boolByte on })

def execSetNotify (s : State) : Res := .next (s.serve (· == codeSetNotify) setNotifyBody)

/-- DETACH (R166, R17): every slot the requester holds is freed, its cursor is none, its alert set is emptied. -/
def detachBody (p : Port) (_ : Request) (s : State) : State × Answer :=
  let freed := s.ct.countClaims fun c => c.holder = p
  let discarded := s.ports[p].alerts.length
  let s := s.onCt fun ct => (ct.freeAll fun c => c.holder = p).onPort p fun q => { q with cursor := none }
  (s.relevel.onPort p fun q => { q with alerts := [] },
    { status := .ok, b2 := byteOf freed, b3 := byteOf discarded })

def execDetach (s : State) : Res := .next (s.serve (· == codeDetach) detachBody)

/-- ALERT_POSTING_REACHES_PORT: the posting leaves its way and its reason unites with the subject's in the port's alert
set (R162). With no such posting on its way the event does not arise. -/
def execAlertPostingReachesPort (p : Port) (subject : Subject) (reason : Reason) (s : State) : Res :=
  let a : Alert := { port := p, subject := subject, reason := reason }
  .next (s.awake fun s =>
    if a ∈ s.links.alerts then
      (s.onLinks fun l => { l with alerts := l.alerts.erase a }).onPort p fun q =>
        { q with alerts := uniteAlert subject reason q.alerts }
    else s)

end Sys2Proof.Machine
end

