-- ==== Sys2Proof/Machine/Reset.lean ====
section
/-! DEFINITION. Device reset (R25, R46, R73, R96, R98, R154, R167, R177). -/

namespace Sys2Proof.Machine

/-- DEVICE_RESET_ASSERTED: RESET_N falls. Every block takes its reset values, and everything in flight is dropped; a
frame in progress is ignored to its end (R154). The input pins keep the levels the board drives, and REFCLK goes on as it
does; an edge that waits is dropped with what is in flight (R96, R127). Device reset does not wait for REFCLK (DESIGN
CHOICE, log 20: safe). -/
def execDeviceResetAsserted (s : State) : Res :=
  .next
    { State.reset with
      ports := Vector.ofFn fun p =>
        { PortRec.reset with
          wire :=
            match s.ports[p].wire with
            | .deselected => .deselected
            | .frame _ => .ignored
            | .ignored => .ignored }
      pins := { s.pins with edges := [] }
      inReset := true
      pending := s.pending }

/-- DEVICE_RESET_RELEASED: RESET_N rises; every block starts from the reset values it holds (R177). With RESET_N high
already there is no rise. -/
def execDeviceResetReleased (s : State) : Res := .next { s with inReset := false }

end Sys2Proof.Machine
end

