-- ==== Sys2Proof/Machine/Dispatch.lean ====
section
/-! DEFINITION. The effect of every command on everything but the queue of waiting commands: one arm a constructor. -/

namespace Sys2Proof.Machine

def exec (i : Instr) (s : State) : Host.Outcome State Fault Refusal :=
  match i with
  | .frameBegin p => Sys2Proof.Machine.execFrameBegin p s
  | .frameEnd p bits => Sys2Proof.Machine.execFrameEnd p bits s
  | .badCommand => Sys2Proof.Machine.execBadCommand s
  | .place => Sys2Proof.Machine.execPlace s
  | .change => Sys2Proof.Machine.execChange s
  | .renew => Sys2Proof.Machine.execRenew s
  | .release => Sys2Proof.Machine.execRelease s
  | .queryClaim => Sys2Proof.Machine.execQueryClaim s
  | .queryModule => Sys2Proof.Machine.execQueryModule s
  | .queryDomain => Sys2Proof.Machine.execQueryDomain s
  | .browse => Sys2Proof.Machine.execBrowse s
  | .browseNext => Sys2Proof.Machine.execBrowseNext s
  | .takeChange => Sys2Proof.Machine.execTakeChange s
  | .takeAlert => Sys2Proof.Machine.execTakeAlert s
  | .setNotify => Sys2Proof.Machine.execSetNotify s
  | .restart => Sys2Proof.Machine.execRestart s
  | .clearModuleFault => Sys2Proof.Machine.execClearModuleFault s
  | .detach => Sys2Proof.Machine.execDetach s
  | .setModule => Sys2Proof.Machine.execSetModule s
  | .setModuleTiming => Sys2Proof.Machine.execSetModuleTiming s
  | .setDomain => Sys2Proof.Machine.execSetDomain s
  | .setKeepOn => Sys2Proof.Machine.execSetKeepOn s
  | .setQuota => Sys2Proof.Machine.execSetQuota s
  | .setTick => Sys2Proof.Machine.execSetTick s
  | .evict => Sys2Proof.Machine.execEvict s
  | .retireAll => Sys2Proof.Machine.execRetireAll s
  | .clearDomainFault => Sys2Proof.Machine.execClearDomainFault s
  | .levelNotice e => Sys2Proof.Machine.execLevelNotice e s
  | .restartStartNotice e => Sys2Proof.Machine.execRestartStartNotice e s
  | .restartEndNotice e => Sys2Proof.Machine.execRestartEndNotice e s
  | .faultNoticeAtCt e => Sys2Proof.Machine.execFaultNoticeAtCt e s
  | .tick => Sys2Proof.Machine.execTick s
  | .setTickHandover => Sys2Proof.Machine.execSetTickHandover s
  | .leaseCountdown => Sys2Proof.Machine.execLeaseCountdown s
  | .lapse sl => Sys2Proof.Machine.execLapse sl s
  | .claimedLevelNotice m => Sys2Proof.Machine.execClaimedLevelNotice m s
  | .stateNotice e => Sys2Proof.Machine.execStateNotice e s
  | .faultNoticeAtDr e => Sys2Proof.Machine.execFaultNoticeAtDr e s
  | .setModuleHandoverDr m => Sys2Proof.Machine.execSetModuleHandoverDr m s
  | .setModuleHandoverEngine e => Sys2Proof.Machine.execSetModuleHandoverEngine e s
  | .setKeepOnHandover x => Sys2Proof.Machine.execSetKeepOnHandover x s
  | .setModuleTimingHandover e => Sys2Proof.Machine.execSetModuleTimingHandover e s
  | .setDomainHandover x => Sys2Proof.Machine.execSetDomainHandover x s
  | .mwakeRise m => Sys2Proof.Machine.execMwakeRise m s
  | .mwakeFall m => Sys2Proof.Machine.execMwakeFall m s
  | .idleCountTick => Sys2Proof.Machine.execIdleCountTick s
  | .idleCountRunsOut m => Sys2Proof.Machine.execIdleCountRunsOut m s
  | .targetPostingAtEngine e => Sys2Proof.Machine.execTargetPostingAtEngine e s
  | .needPosting x => Sys2Proof.Machine.execNeedPosting x s
  | .restartPosting e => Sys2Proof.Machine.execRestartPosting e s
  | .takeEntry e => Sys2Proof.Machine.execTakeEntry e s
  | .hold e => Sys2Proof.Machine.execHold e s
  | .mrdyRise m => Sys2Proof.Machine.execMrdyRise m s
  | .mrdyFall m => Sys2Proof.Machine.execMrdyFall m s
  | .ackTimeout e => Sys2Proof.Machine.execAckTimeout e s
  | .supplierFaultNotice e => Sys2Proof.Machine.execSupplierFaultNotice e s
  | .supplierClearNotice e => Sys2Proof.Machine.execSupplierClearNotice e s
  | .moduleClear e => Sys2Proof.Machine.execModuleClear e s
  | .domainClear x => Sys2Proof.Machine.execDomainClear x s
  | .dpgRise x => Sys2Proof.Machine.execDpgRise x s
  | .dpgFall x => Sys2Proof.Machine.execDpgFall x s
  | .rampTimeout x => Sys2Proof.Machine.execRampTimeout x s
  | .offTimeout x => Sys2Proof.Machine.execOffTimeout x s
  | .lingerTick e => Sys2Proof.Machine.execLingerTick e s
  | .lingerRunsOut x => Sys2Proof.Machine.execLingerRunsOut x s
  | .deviceResetAsserted => Sys2Proof.Machine.execDeviceResetAsserted s
  | .deviceResetReleased => Sys2Proof.Machine.execDeviceResetReleased s
  | .alertPostingReachesPort p subject reason => Sys2Proof.Machine.execAlertPostingReachesPort p subject reason s

end Sys2Proof.Machine
end

