-- ==== Sys2Proof/Safety.lean ====
section
/-! DEFINITION. What a sound state is: the conditions that the specification says hold after every event, in the terms
the statements use. Each is a decidable condition on one state. -/

namespace Sys2Proof.Machine

/-- RESET_N is released and REFCLK runs, so that the blocks take events (R25, R45, R73, R96). -/
abbrev Running (s : State) : Prop := s.inReset = false ∧ s.pins.refclk = true

/-- No edge of pin `p` waits to be taken (R45). -/
abbrev Settled (s : State) (p : Pin) : Prop := ∀ g ∈ s.pins.edges, g.pin ≠ p

/-! ### The claim table -/

/-- Each port's count is the number of slots it holds (R18). -/
abbrev CountsRight (s : State) : Prop :=
  ∀ p : Port, s.ct.ports[p].count = s.ct.countClaims fun c => decide (c.holder = p)

/-- The claim in a slot is live and names module `m`. -/
def Ct.liveOn (ct : Ct) (m : Module) (sl : Slot) : Bool :=
  (ct.claimAt sl).any fun c => c.state.live && decide (c.module = m)

/-- Each claim list holds exactly the live claims that name its module, each once (R6). -/
abbrev ListsRight (s : State) : Prop :=
  ∀ m : Module, s.ct.lists[m].Nodup ∧ ∀ sl : Slot, sl ∈ s.ct.lists[m] ↔ s.ct.liveOn m sl = true

/-- Each claimed level is the highest level in the module's list, 0 for an empty one (R8). -/
abbrev ClaimedRight (s : State) : Prop := ∀ m : Module, s.ct.claimed[m] = s.ct.worked m

/-- Each change set is ascending without duplicates and holds only slots its port holds (R20). -/
abbrev ChangeSetsRight (s : State) : Prop :=
  ∀ p : Port, s.ct.ports[p].changes.Pairwise (· < ·) ∧
    ∀ sl ∈ s.ct.ports[p].changes, (s.ct.claimAt sl).any (fun c => decide (c.holder = p)) = true

/-- Each cursor that stands after a claim stands after one of its module's list (R23). -/
abbrev CursorsRight (s : State) : Prop :=
  ∀ p : Port, ∀ c ∈ s.ct.ports[p].cursor, ∀ sl ∈ c.after, sl ∈ s.ct.lists[c.module]

/-- The fields of one claim (Table 1-1, R49): level 1 to 3; lease remaining just for a live leased claim, and then from 1
to the lease length; generation seen present once granted. -/
abbrev Claim.right (c : Claim) : Prop :=
  1 ≤ c.level ∧ c.leaseLength ≤ 65535 ∧
    (c.leaseLeft.isSome = true ↔ c.state.live = true ∧ c.leaseLength ≠ 0) ∧
    (∀ n ∈ c.leaseLeft, 1 ≤ n ∧ n ≤ c.leaseLength) ∧ (c.state = .granted → c.genSeen.isSome = true)

/-- Every claim's fields are right. -/
abbrev ClaimsRight (s : State) : Prop := ∀ sl : Slot, ∀ c ∈ s.ct.claimAt sl, c.right

/-! ### The ports -/

/-- Each alert set is in ascending subject order, each subject once, with a nonempty set of reasons (R162). -/
abbrev AlertSetsRight (s : State) : Prop :=
  ∀ p : Port, (s.ports[p].alerts.Pairwise fun a b => subjectCode a.subject < subjectCode b.subject) ∧
    ∀ a ∈ s.ports[p].alerts, a.reasons ≠ 0

/-- A port's answer holder shows WAITING just while its request slot is occupied, with that request's sequence (R153,
R155, R156). -/
abbrev WaitingRight (s : State) : Prop :=
  ∀ p : Port, (s.ports[p].slot.isSome = true ↔ s.ports[p].holder.status = statusCode .waiting) ∧
    ∀ r ∈ s.ports[p].slot, s.ports[p].holder.echo.setWidth 4 = r.sequence

/-! ### The timebase -/

/-- A tick divider (R46, R47). -/
abbrev dividerFits (n : Nat) : Prop := 1 ≤ n ∧ n ≤ 64

/-- The dividers are 1 to 64, and the period in progress has not come to its end (R46, R47). -/
abbrev TimebaseRight (s : State) : Prop :=
  dividerFits s.timebase.tickDiv ∧ dividerFits s.timebase.periodLength ∧ dividerFits s.ct.divider ∧
    (∀ n ∈ s.links.dividers, dividerFits n) ∧ s.timebase.usCount < Config.quarterUs ∧
    s.timebase.elapsed < s.timebase.periodLength * Config.quarterUs

/-! ### The directory and the demand resolver -/

/-- A record of module `m` names a supplier of lower index only (R58). -/
abbrev supplierBelow (m : Module) (r : DirRecord) : Prop := ∀ u ∈ r.supplier, u < m

/-- The record that a hand-over to an engine carries, with its module. -/
def CtPosting.record : CtPosting → Option (Module × DirRecord)
  | .setModule m r _ => some (m, r)
  | .setTiming _ _ _ _ => none
  | .setDomain _ _ _ _ => none
  | .restart _ _ => none
  | .moduleClear _ => none
  | .domainClear _ => none

/-- Every record, in the three copies and on its way, names a supplier of lower index only (R56, R58). -/
abbrev SupplierOrder (s : State) : Prop :=
  (∀ m : Module, supplierBelow m s.ct.dir[m] ∧ supplierBelow m s.dr.dir[m] ∧ supplierBelow m s.engines.dir[m]) ∧
    (∀ h ∈ s.links.modulesToDr, supplierBelow h.1 h.2) ∧
    ∀ e : Domain, ∀ h ∈ s.links.ctToEngine[e], ∀ r ∈ h.record, supplierBelow r.1 r.2

/-- The effective level that R61 gives a module. -/
def Dr.dueLevel (d : Dr) (m : Module) : Level :=
  if d.demands m then max d.claimed[m] (highest ((dependentsIn d.dir m).map fun u => d.eff[u])) else 0

/-- The wake need that R120 gives a module. -/
def Dr.dueWake (d : Dr) (m : Module) : Bool :=
  decide (d.eff[m] = 2) &&
    (d.wakeReq[m] || d.idle[m].isSome || (dependentsIn d.dir m).any fun u => d.views[u].woken || d.wakeNeed[u])

/-- What the demand resolver works out stands worked out, and what it owes is posted: effective levels (R61), watches
(R116), wake needs (R120), targets (R65) and needs (R68). -/
abbrev DemandRight (s : State) : Prop :=
  (∀ m : Module, s.dr.eff[m] = s.dr.dueLevel m ∧ s.dr.watched[m] = s.dr.watches s.dr.eff m ∧
      s.dr.wakeNeed[m] = s.dr.dueWake m ∧ (s.dr.demands m = true → s.dr.posted[m] = s.dr.target m) ∧
      (s.dr.watched[m] = false → s.dr.wakeReq[m] = false ∧ s.dr.idle[m] = none)) ∧
    (∀ d : Domain, s.dr.need[d] = s.dr.needs d) ∧
    ∀ x : SwDom, s.dr.postedNeed[x] = s.dr.need[SwDom.domain x]

/-! ### The engines -/

/-- The lines of a recorded state with no step in flight: gate open, reset released (Table 5-3). -/
def PhysState.lines : PhysState → Bool × Bool
  | .off => (false, false)
  | .held => (true, false)
  | .paused => (false, true)
  | .running => (true, true)
  | .fault => (false, false)

/-- The lines that a record drives. -/
def ModRec.lines (r : ModRec) : Bool × Bool := (r.clockOpen, r.resetReleased)

/-- The recorded states a step is used from (Table 5-6). -/
def stepApplies : LineStep → PhysState → Bool
  | .clockOn, .off => true
  | .clockOn, .paused => true
  | .clockOff, .held => true
  | .clockOff, .running => true
  | .resetAssert, .running => true
  | .resetAssert, .paused => true
  | .resetRelease, .off => true
  | .resetRelease, .held => true
  | .hold, .held => true
  | _, _ => false

/-- Every step of a path applies where the ones before it lead, and the path does not end in HELD or FAULT (R76). -/
def pathFits : PhysState → List LineStep → Bool
  | st, [] => decide (st ≠ .held ∧ st ≠ .fault)
  | st, step :: rest => stepApplies step st && pathFits (stateAfter step st) rest

/-- The lines with step `st` in flight from a recorded state (Table 5-6). -/
def linesDuring : LineStep → PhysState → Bool × Bool
  | .clockOn, st => (true, st.lines.2)
  | .clockOff, st => (false, st.lines.2)
  | .resetAssert, st => (st.lines.1, false)
  | .resetRelease, st => (st.lines.1, true)
  | .hold, st => st.lines

/-- A record with no transition in flight: not HELD, with the lines of its state (R76). -/
abbrev ModRec.atRest (r : ModRec) : Prop := r.state ≠ .held ∧ r.lines = r.state.lines

/-- A record whose transition has `steps` before it: the first is in flight and waits, and the rest of the path fits. -/
def ModRec.onPath (r : ModRec) : List LineStep → Bool
  | [] => false
  | st :: rest =>
    decide (st = .clockOn ∨ st = .clockOff ∨ st = .hold) && pathFits r.state (st :: rest) &&
      decide (r.lines = linesDuring st r.state)

/-- A module's record at its engine (Table 5-2, R75, R76, R95): flags only in their states, a cause just in FAULT,
nothing wanted and nothing pending in FAULT, a pending restart only while stepping. -/
abbrev ModRec.right (r : ModRec) : Prop :=
  (r.armed = true → r.state = .paused) ∧ (r.woken = true → r.state = .running) ∧
    (r.cause.isSome = true ↔ r.state = .fault) ∧ (r.state = .fault → r.wanted = .off ∧ r.stepping = false) ∧
    (r.stepping = false → r.atRest ∧ r.pendingRestart = none)

/-- Every module's record is right, and an absent module stands OFF with nothing wanted (R74, R75). -/
abbrev ModulesRight (s : State) : Prop :=
  ∀ m : Module, (s.modAt m).right ∧
    ((s.engineDir m).present = false →
      (s.modAt m).state = .off ∧ (s.modAt m).stepping = false ∧ (s.modAt m).wanted = .off)

/-- Each queue holds at most one entry a module, and only present, non-FAULT modules of its engine that are not in
flight (R80). -/
abbrev QueuesRight (s : State) : Prop :=
  ∀ e : Domain, (s.engines.recs[e].queue.map (·.module)).Nodup ∧
    ∀ en ∈ s.engines.recs[e].queue, s.faultable e en.module = true ∧ (s.modAt en.module).stepping = false

/-- A module steps just while its engine has its transition in flight, and then stands on that path (R75, R86). -/
abbrev TransitionsRight (s : State) : Prop :=
  (∀ e : Domain, ∀ t ∈ s.inFlight e,
      s.faultable e t.module = true ∧ (s.modAt t.module).stepping = true ∧ (s.modAt t.module).onPath t.steps = true) ∧
    ∀ m : Module, (s.modAt m).stepping = true → (s.inFlight (s.engineOf m)).any (fun t => decide (t.module = m)) = true

/-- A switched domain's record (Tables 6-2 and 6-3): the lines of its state, a cause just in FAULT, a linger count just in
LINGER, and then at least 1. -/
abbrev DomRec.right (r : DomRec) : Prop :=
  (r.dsw = true ↔ r.state = .rampUp ∨ r.state = .on ∨ r.state = .linger) ∧
    (r.isoReleased = true ↔ r.state = .on ∨ r.state = .linger) ∧ (r.cause.isSome = true ↔ r.state = .fault) ∧
    (r.lingerCount.isSome = true ↔ r.state = .linger) ∧ ∀ n ∈ r.lingerCount, 1 ≤ n

/-- Every switched domain's record is right (R98, R99). -/
abbrev DomainsRight (s : State) : Prop := ∀ x : SwDom, s.engines.doms[x].right

/-- A ramp is in flight just while its domain ramps; E0 has none (R89, R112). -/
abbrev RampsRight (s : State) : Prop :=
  s.engines.recs[(0 : Domain)].work ≠ .ramp ∧
    ∀ x : SwDom, s.engines.recs[x.domain].work = .ramp ↔
      s.engines.doms[x].state = .rampUp ∨ s.engines.doms[x].state = .rampDown

/-- An engine's step timer runs just while it has work in flight (R86, R89, R90, R92, R101, R106). -/
abbrev TimersRight (s : State) : Prop :=
  ∀ e : Domain, s.engines.recs[e].timer.isSome = true ↔ s.engines.recs[e].work ≠ .idle

/-- Which modules may be out of OFF (R112): those of D0, and of a domain in ON; in LINGER, RAMP_UP, RAMP_DOWN and OFF
every present module stands OFF or FAULT with no transition in flight (R103, R106), and in FAULT every present module
stands in FAULT (R110). -/
abbrev PowerRight (s : State) : Prop :=
  ∀ m : Module, (s.engineDir m).present = true → s.domState (s.engineOf m) ≠ .on →
    (s.modAt m).stepping = false ∧ ((s.modAt m).state = .off ∨ (s.modAt m).state = .fault) ∧
      (s.domState (s.engineOf m) = .fault → (s.modAt m).state = .fault)

/-- The engines as a whole. -/
abbrev EnginesRight (s : State) : Prop :=
  ModulesRight s ∧ QueuesRight s ∧ TransitionsRight s ∧ DomainsRight s ∧ RampsRight s ∧ TimersRight s ∧
    PowerRight s

/-! ### Device reset -/

/-- While RESET_N is asserted every block holds its reset values, and no frame and no edge is taken (R25, R46, R73, R96,
R98, R127, R154, R167). -/
abbrev ResetHeld (s : State) : Prop :=
  s.inReset = true →
    s.ct = Ct.reset ∧ s.dr = Dr.reset ∧ s.engines = Engines.reset ∧ s.timebase = Timebase.reset ∧
      s.ticks = TickWaiting.reset ∧ s.links = Links.reset ∧ s.lastServed = 3 ∧ s.pins.edges = [] ∧
      ∀ p : Port, s.ports[p] = { PortRec.reset with wire := s.ports[p].wire } ∧
        (s.ports[p].wire = .deselected ∨ s.ports[p].wire = .ignored)

/-! ### What a request does, in the words of the statements -/

/-- The claim table takes request `r`, of code `code`, from port `p` next (R155, R161). -/
abbrev Serving (s : State) (p : Port) (r : Request) (code : Byte) : Prop :=
  Running s ∧ s.nextRequest = some (p, r) ∧ r.code = code

/-- The command code of a request command (Table 10-2); the other commands, and BAD_COMMAND, have none. -/
def requestCode : Instr → Option Byte
  | .place => some 0x01
  | .change => some 0x02
  | .renew => some 0x03
  | .release => some 0x04
  | .queryClaim => some 0x05
  | .queryModule => some 0x08
  | .queryDomain => some 0x09
  | .browse => some 0x0A
  | .browseNext => some 0x0B
  | .takeChange => some 0x0C
  | .takeAlert => some 0x0D
  | .setNotify => some 0x0E
  | .restart => some 0x10
  | .clearModuleFault => some 0x11
  | .detach => some 0x1F
  | .setModule => some 0x20
  | .setModuleTiming => some 0x21
  | .setDomain => some 0x22
  | .setKeepOn => some 0x23
  | .setQuota => some 0x24
  | .setTick => some 0x25
  | .evict => some 0x26
  | .retireAll => some 0x27
  | .clearDomainFault => some 0x28
  | _ => none

/-- The command that brings an edge of an input pin. -/
def Edge.command (g : Edge) : Instr :=
  match g.pin with
  | .mrdy m => if g.up then .mrdyRise m else .mrdyFall m
  | .mwake m => if g.up then .mwakeRise m else .mwakeFall m
  | .dpg x => if g.up then .dpgRise x else .dpgFall x

/-- The command is an event at a block that REFCLK clocks; the others are the frames of the ports, which HSCK clocks, the
edges of the pins, and RESET_N (R45, R154). -/
def needsRefclk : Instr → Bool
  | .frameBegin _ => false
  | .frameEnd _ _ => false
  | .mrdyRise _ => false
  | .mrdyFall _ => false
  | .mwakeRise _ => false
  | .mwakeFall _ => false
  | .dpgRise _ => false
  | .dpgFall _ => false
  | .deviceResetAsserted => false
  | .deviceResetReleased => false
  | _ => true

/-- How far behind the last port served port `q` comes in the round, from 0 for the next one to 3 (R161). -/
def turn (last q : Port) : Nat := (q.val + 3 - last.val) % 4

/-- A port controller once the answer is written: the slot empty, the marks carried and cleared, the flags as they stand
at the write (R155, R156, R157). -/
def PortRec.answered (q : PortRec) (sequence : BitVec 4) (a : Answer) (changes : Bool) : PortRec :=
  { q with
    slot := none
    holder := a.bytes (echoByte sequence q.overrun q.frameMark changes (!q.alerts.isEmpty))
    overrun := false
    frameMark := false }

/-- Port `p` was served and answered `a`, after the change `f` of its controller; no other port changed. -/
abbrev Answered (s t : State) (p : Port) (r : Request) (a : Answer) (f : PortRec → PortRec) : Prop :=
  t.lastServed = p ∧
    t.ports[p] = (f s.ports[p]).answered r.sequence a (!t.ct.ports[p].changes.isEmpty) ∧
    ∀ q : Port, q ≠ p → t.ports[q] = s.ports[q]

/-- The demand resolver, the engines, the timebase, the ticks, the inputs, device reset and the waiting commands are as
they were. -/
abbrev SameBlocks (s t : State) : Prop :=
  t.dr = s.dr ∧ t.engines = s.engines ∧ t.timebase = s.timebase ∧ t.ticks = s.ticks ∧ t.pins = s.pins ∧
    t.inReset = s.inReset ∧ t.pending = s.pending

/-- The port controllers and the last port served are as they were. -/
abbrev SamePorts (s t : State) : Prop := t.ports = s.ports ∧ t.lastServed = s.lastServed

/-- What the claim table holds beside slots, lists, claimed levels and port items is as it was. -/
abbrev SameRecords (c d : Ct) : Prop :=
  d.views = c.views ∧ d.restartMark = c.restartMark ∧ d.dir = c.dir ∧ d.divider = c.divider

/-- Claimed levels stand worked out, and one notice went out for each module whose level changed (R8). -/
abbrev Relevelled (s t : State) : Prop :=
  (∀ m : Module, t.ct.claimed[m] = t.ct.worked m) ∧
    t.links = { s.links with
      claimedLevels := s.links.claimedLevels ++
        (allModules.filter fun m => t.ct.worked m ≠ s.ct.claimed[m]).map fun m => (m, t.ct.worked m) }

/-- The cursor `c` after slot `sl` left module `m`'s list, whose claims were `l` (R24). -/
def movedBack (m : Module) (sl : Slot) (l : List Slot) (c : Option Cursor) : Option Cursor :=
  if c = some { module := m, after := some sl } then some { module := m, after := predecessor l sl } else c

/-- The claim in slot `sl` left the table's lists: only its module's list loses it, and only cursors that stood after it
move (R7, R24). -/
abbrev LeftList (c d : Ct) (m : Module) (sl : Slot) : Prop :=
  d.lists[m] = c.lists[m].filter (· ≠ sl) ∧ (∀ k : Module, k ≠ m → d.lists[k] = c.lists[k]) ∧
    ∀ q : Port, d.ports[q].cursor = movedBack m sl c.lists[m] c.ports[q].cursor

/-- Where cursor `c` ends when the slots that `leaves` names leave the lists of `ct` in one event: one that stood after a
slot that leaves stands after the nearest claim before it that remains, or before first (R17, R24, R51). -/
def cursorPast (ct : Ct) (leaves : Slot → Bool) (c : Cursor) : Cursor :=
  match c.after with
  | none => c
  | some sl =>
    if leaves sl then
      { c with after := ((ct.lists[c.module].takeWhile (· ≠ sl)).filter fun x => !leaves x).getLast? }
    else c

/-- Lists and cursors are as they were. -/
abbrev SameLists (c d : Ct) : Prop := d.lists = c.lists ∧ ∀ q : Port, d.ports[q].cursor = c.ports[q].cursor

/-- Slot `sl`, which held claim `c`, is free: generation up by one, out of the holder's change set, the holder's count
down by one; every other slot, change set, count and quota is as it was (R16). -/
abbrev Freed (c d : Ct) (sl : Slot) (cl : Claim) : Prop :=
  d.slots[sl] = { gen := c.slots[sl].gen + 1, claim := none } ∧
    (∀ x : Slot, x ≠ sl → d.slots[x] = c.slots[x]) ∧
    d.ports[cl.holder].changes = c.ports[cl.holder].changes.filter (· ≠ sl) ∧
    d.ports[cl.holder].count = c.ports[cl.holder].count - 1 ∧
    (∀ q : Port, d.ports[q].quota = c.ports[q].quota) ∧
    (∀ q : Port, q ≠ cl.holder →
      d.ports[q].changes = c.ports[q].changes ∧ d.ports[q].count = c.ports[q].count) ∧
    if cl.state.live then LeftList c d cl.module sl else SameLists c d

/-- The claim in slot `sl` became `new`; every other slot is as it was. -/
abbrev ClaimNow (c d : Ct) (sl : Slot) (new : Claim) : Prop :=
  d.slots[sl] = { gen := c.slots[sl].gen, claim := some new } ∧ ∀ x : Slot, x ≠ sl → d.slots[x] = c.slots[x]

/-- Counts and quotas are as they were. -/
abbrev SameCounts (c d : Ct) : Prop :=
  ∀ q : Port, d.ports[q].count = c.ports[q].count ∧ d.ports[q].quota = c.ports[q].quota

/-- The handle in bytes 2 and 3 of request `r` names slot `sl`, which holds claim `c` (R4). -/
abbrev Names (s : State) (r : Request) (sl : Slot) (c : Claim) : Prop :=
  (r.byte 2).toNat = sl.val ∧ r.byte 3 = s.ct.slots[sl].gen ∧ s.ct.claimAt sl = some c

/-- The handle in bytes 2 and 3 of request `r` names no claim (R4). -/
abbrev NamesNone (s : State) (r : Request) : Prop :=
  ∀ sl : Slot, (r.byte 2).toNat = sl.val → r.byte 3 = s.ct.slots[sl].gen → s.ct.claimAt sl = none

/-! ### What an engine event does, in the words of the statements -/

/-- The engines changed between `s` and `t` in the record of module `m` and in what engine `e` holds only. -/
abbrev SameEngines (s t : State) (e : Domain) (m : Module) : Prop :=
  t.engines.dir = s.engines.dir ∧ t.engines.doms = s.engines.doms ∧
    (∀ k : Module, k ≠ m → t.modAt k = s.modAt k) ∧
    ∀ d : Domain, d ≠ e → t.engines.recs[d] = s.engines.recs[d]

/-- The claim table, the demand resolver, the ports, the ticks, the pins, device reset and the waiting commands are as
they were. -/
abbrev OnlyEngines (s t : State) : Prop :=
  t.ct = s.ct ∧ t.dr = s.dr ∧ t.ports = s.ports ∧ t.lastServed = s.lastServed ∧ t.ticks = s.ticks ∧ t.pins = s.pins ∧
    t.inReset = s.inReset ∧ t.pending = s.pending

/-- Table 5-4, kind up: from OFF to any other target, and from PAUSED to RUNNING. -/
abbrev GoesUp (r : ModRec) (t : Target) : Prop :=
  r.state = .off ∧ t ≠ .off ∨ r.state = .paused ∧ (t = .runningWoken ∨ t = .running)

/-- Table 5-4, kind down: from PAUSED to OFF, and from RUNNING to OFF or PAUSED. -/
abbrev GoesDown (r : ModRec) (t : Target) : Prop :=
  r.state = .paused ∧ t = .off ∨ r.state = .running ∧ (t = .off ∨ t = .paused ∨ t = .pausedArmed)

/-- Table 5-4, kind flag-only: PAUSED or RUNNING as the target is, with another flag. -/
abbrev ChangesFlags (r : ModRec) (t : Target) : Prop :=
  (r.state = .paused ∧ (t = .paused ∨ t = .pausedArmed) ∨ r.state = .running ∧ (t = .runningWoken ∨ t = .running)) ∧
    r.view ≠ t.view

/-- R87, conditions 1 to 4 of an entry of kind up in engine `e`'s queue: the domain is D0, ON or LINGER; the supplier, if
there is one, is PAUSED or RUNNING for a path that ends in PAUSED and RUNNING for one that ends in RUNNING, and is not
stepping. -/
abbrev MayGoUp (s : State) (e : Domain) (m : Module) (t : Target) : Prop :=
  (e = 0 ∨ ∃ x : SwDom, x.domain = e ∧ (s.engines.doms[x].state = .on ∨ s.engines.doms[x].state = .linger)) ∧
    (t = .paused ∨ t = .pausedArmed →
      ∀ u ∈ (s.engineDir m).supplier, (s.modAt u).state = .paused ∨ (s.modAt u).state = .running) ∧
    (t = .runningWoken ∨ t = .running → ∀ u ∈ (s.engineDir m).supplier, (s.modAt u).state = .running) ∧
    ∀ u ∈ (s.engineDir m).supplier, (s.modAt u).stepping = false

/-- R87, conditions 1 to 3 of an entry of kind down, for every present dependent: at or below the target's physical level,
not stepping, and not RUNNING where the target is PAUSED. -/
abbrev MayGoDown (s : State) (m : Module) (t : Target) : Prop :=
  ∀ d : Module, (s.engineDir d).present = true → (s.engineDir d).supplier = some m →
    (s.modAt d).level ≤ t.level ∧ (s.modAt d).stepping = false ∧
      (t = .paused ∨ t = .pausedArmed → (s.modAt d).state ≠ .running)

/-- The alerts of a fault entry: FAULT to the owner, and to HP0 where it is not the owner (R139). -/
def faultAlerts (s : State) (m : Module) : List Alert :=
  let owner := s.dr.dir[m].owner
  { port := owner, subject := .module m, reason := .fault } ::
    (if owner = 0 then [] else [{ port := 0, subject := .module m, reason := .fault }])

/-- The RESTART_FAILED alert to a requester, where there is one (R136). -/
def failureAlerts (m : Module) : Option Port → List Alert
  | none => []
  | some p => [{ port := p, subject := .module m, reason := .restartFailed }]

/-- The work of an engine once module `m` is out of it: a transition of `m` is abandoned (R95). -/
def workWithout (m : Module) : Work → Work
  | .idle => .idle
  | .ramp => .ramp
  | .transition t => if t.module = m then .idle else .transition t

/-- Module `m` of engine `e` entered FAULT with cause `c` between `s` and `t` (R95, R136, R139): its record and lines,
the engine's queue and work, the notices and the alerts. -/
abbrev FaultEntered (s t : State) (e : Domain) (m : Module) (c : ModCause) : Prop :=
  t.modAt m = { s.modAt m with
    state := .fault, armed := false, woken := false, cause := some c, wanted := .off, stepping := false
    clockOpen := false, resetReleased := false, pendingRestart := none } ∧
  t.engines.recs[e].queue = s.engines.recs[e].queue.filter (·.module ≠ m) ∧
  t.engines.recs[e].work = workWithout m s.engines.recs[e].work ∧
  t.engines.recs[e].timer =
    (if workWithout m s.engines.recs[e].work = s.engines.recs[e].work then s.engines.recs[e].timer else none) ∧
  SameEngines s t e m ∧ OnlyEngines s t ∧ t.timebase = s.timebase ∧
  t.links = { s.links with
    toCt := modifyAt s.links.toCt e fun l =>
      l ++ CtNotice.fault m c :: (if (s.restartStanding e m).isSome then [CtNotice.restartEnd m] else [])
    toDr := modifyAt s.links.toDr e fun l => l ++ [DrNotice.fault m c]
    alerts := s.links.alerts ++ faultAlerts s m ++ failureAlerts m (s.restartStanding e m) }

/-- The target postings that a demand resolver `d` owes engine `e` where `posted` was posted before, in ascending module
index (R65, R66). -/
def owedTargets (d : Dr) (posted : Vector Target 32) (e : Domain) : List DrPosting :=
  (allModules.filter fun k =>
      d.demands k && decide (d.dir[k].domain = e) && decide (d.target k ≠ posted[k])).map fun k => .target k (d.target k)

/-- The need posting that `d` owes engine `e`, none to E0 (R68, R70). -/
def owedNeed (d : Dr) (postedNeed : Vector Bool 3) (e : Domain) : List DrPosting :=
  match switchedOf e with
  | none => []
  | some x => if d.need[e] = postedNeed[x] then [] else [.need d.need[e]]

/-- At the end of the event the demand resolver posts to each engine the targets, then the need, then `extra` (R62, R66,
R68, R140, R146). -/
abbrev DemandPosted (s t : State) (posted : Vector Target 32) (extra : Domain → List DrPosting) : Prop :=
  ∀ e : Domain, t.links.drToEngine[e] =
    s.links.drToEngine[e] ++ owedTargets t.dr posted e ++ owedNeed t.dr s.dr.postedNeed e ++ extra e

/-- What the watch of the event's end leaves of each module's wake request and idle count, where the event itself
changed neither: a watch that begins reads MWAKE, one that goes on keeps both, and an unwatched module has neither
(R116). -/
abbrev WatchFollows (s t : State) : Prop :=
  ∀ k : Module,
    t.dr.wakeReq[k] = (t.dr.watched[k] && if s.dr.watched[k] then s.dr.wakeReq[k] else s.pins.mwake[k]) ∧
      t.dr.idle[k] = if t.dr.watched[k] then s.dr.idle[k] else none

/-- The claim table, the engines, the timebase, the ports, device reset and the waiting commands are as they were. -/
abbrev OnlyResolver (s t : State) : Prop :=
  t.ct = s.ct ∧ t.engines = s.engines ∧ t.timebase = s.timebase ∧ SamePorts s t ∧ t.inReset = s.inReset ∧
    t.pending = s.pending

/-- A notice about each present dependent of `m`, for the dependents of domain `e`, in ascending index (R140; for
supplier-clear notices, which R146 gives no order, the model's choice, log 23). -/
def noticesFor (d : Dr) (m : Module) (notice : Module → DrPosting) (e : Domain) : List DrPosting :=
  ((dependentsIn d.dir m).filter fun u => decide (d.dir[u].domain = e)).map notice

/-- The state in which an engine takes an event: the edge has changed its pin, or the step timer has counted its time. -/
def afterInput (s : State) : Instr → State
  | .hold e => s.elapse (s.timerLeft e)
  | .ackTimeout e => s.elapse (s.timerLeft e)
  | .rampTimeout x => s.elapse (s.timerLeft x.domain)
  | .offTimeout x => s.elapse (s.timerLeft x.domain)
  | .mrdyRise m => { s with pins := { s.pins with mrdy := s.pins.mrdy.set m true } }
  | .mrdyFall m => { s with pins := { s.pins with mrdy := s.pins.mrdy.set m false } }
  | .dpgRise x => { s with pins := { s.pins with dpg := s.pins.dpg.set x true } }
  | .dpgFall x => { s with pins := { s.pins with dpg := s.pins.dpg.set x false } }
  | _ => s

/-- Command `i` completes the step `st` in flight at engine `e` in transition `tr`, with `rest` of its path to come (R90,
R92): HOLD, a rise of MRDY on a waiting CLOCK_ON, or a fall on a waiting CLOCK_OFF. -/
abbrev CompletesStep (s : State) (i : Instr) (e : Domain) (tr : Transition) (st : LineStep) (rest : List LineStep) :
    Prop :=
  Running s ∧ s.inFlight e = some tr ∧ tr.steps = st :: rest ∧
    (i = .hold e ∧ st = .hold ∨
      s.faultable e tr.module = true ∧ Settled s (.mrdy tr.module) ∧
        (i = .mrdyRise tr.module ∧ st = .clockOn ∧ s.pins.mrdy[tr.module] = false ∨
          i = .mrdyFall tr.module ∧ st = .clockOff ∧ s.pins.mrdy[tr.module] = true))

/-- The notices of a record that went from `old` to `new` (R93): a level notice for a changed level, a state notice for a
changed state or flag. -/
def levelNoticeFor (m : Module) (old new : ModRec) : List CtNotice :=
  if old.level = new.level then [] else [.level m new.level new.gen]

def stateNoticeFor (m : Module) (old new : ModRec) : List DrNotice :=
  if old.view = new.view then [] else [.state m new.view]

/-- The entry that the comparison at a transition's end appends (R81, R82). -/
def entryAfter (m : Module) (r : ModRec) : List Entry :=
  if r.view = r.wanted.view ∧ r.pendingRestart = none then []
  else [{ module := m, target := r.wanted, restart := r.pendingRestart }]

/-- The restart end notice and the RESTART_DONE alert of a restart that reached its end (R135). -/
def doneNotices (m : Module) (restart : Option Port) : List CtNotice := if restart.isSome then [.restartEnd m] else []

def doneAlerts (m : Module) : Option Port → List Alert
  | none => []
  | some p => [{ port := p, subject := .module m, reason := .restartDone }]

/-- What the release rule leaves of module `m`'s record, on the states of `s` (R144, R145). -/
def releasedRecord (s : State) (m : Module) : ModRec :=
  let r := s.modAt m
  if s.domState (s.engineOf m) = .fault then { r with cause := some .domain }
  else if (supplierChain s.engines.dir 32 m).any (fun u => decide ((s.modAt u).state = .fault)) then
    { r with cause := some .supplier }
  else { r with state := .off, armed := false, woken := false, cause := none }

/-- The release rule applied to module `m` at engine `e`: the record, and for a module that leaves FAULT its two notices
(R144, R145). -/
abbrev ReleaseApplied (s t : State) (e : Domain) (m : Module) : Prop :=
  t.modAt m = releasedRecord s m ∧ SameEngines s t e m ∧ t.engines.recs = s.engines.recs ∧ OnlyEngines s t ∧
    t.timebase = s.timebase ∧
    t.links =
      if (releasedRecord s m).state = .off then
        { s.links with
          toCt := modifyAt s.links.toCt e (· ++ [.level m 0 (s.modAt m).gen])
          toDr := modifyAt s.links.toDr e (· ++ [.state m { state := .off, armed := false, woken := false }]) }
      else s.links

end Sys2Proof.Machine
end

