-- ==== Sys2Proof/Certificates/Slice0/Obligations.lean ====
section
/-! DEFINITION. The statements for the provers. Each docstring names the rules of spec/ that the statement formalises.
A request is served as Sys2Proof/Safety.lean says it (`Serving`, `Answered`); every statement of an effect concludes that
the command answers a next state, and says what that state is. -/

open Sys2Proof Sys2Proof.Machine

/-! ### The queue, the passing of time, device reset -/

/-- A step carries out the command at the front of the queue on the state with the queue's rest. -/
def Obligations.StepRunsTheFrontCommand : Prop :=
  ∀ (c : Instr) (rest : List Instr) (s : State),
    Machine.step { s with pending := c :: rest } = exec c { s with pending := rest }

/-- On an empty queue time passes (the model's choice, logs 5 and 20). REFCLK stops or starts where that is to come. Else,
while it runs, the oldest waiting edge is taken, and where none waits one µs unit passes: the timebase and each running step
timer count it (R45, R46), and the unit that ends the period is TICK. In device reset, and while REFCLK stands still, there
is no unit. While REFCLK stands still no command but a frame, a pin and RESET_N has an effect: requests wait in their slots
and notices in their streams, and an edge changes its pin and waits; taken once REFCLK runs, it has the effect it would have
had there (R45). -/
def Obligations.IdleStepPassesOneUnit : Prop :=
  (∀ (s : State) (b : Bool) (rest : List Bool), s.pending = [] → s.pins.refclkAhead = b :: rest →
    Machine.step s = .next { s with pins := { s.pins with refclk := b, refclkAhead := rest } }) ∧
  (∀ s : State, s.pending = [] → s.pins.refclkAhead = [] → s.inReset = true ∨ s.pins.refclk = false →
    Machine.step s = .next s) ∧
  (∀ (s : State) (g : Edge) (rest : List Edge), s.pending = [] → Running s → s.pins.refclkAhead = [] →
    s.pins.edges = g :: rest →
    Machine.step s = .next (({ s with pins := { s.pins with edges := rest } } : State).takeEdge g)) ∧
  (∀ s : State, s.pending = [] → Running s → s.pins.refclkAhead = [] → s.pins.edges = [] →
    (s.timebase.periodLength * 250 ≤ s.timebase.elapsed + 1 → Machine.step s = exec .tick s) ∧
    (s.timebase.elapsed + 1 < s.timebase.periodLength * 250 →
      ∃ t, Machine.step s = .next t ∧ t.timebase.elapsed = s.timebase.elapsed + 1 ∧ t.timebase.usCount < 250 ∧
        t.timebase.tickDiv = s.timebase.tickDiv ∧ t.timebase.periodLength = s.timebase.periodLength ∧
        (∀ e : Domain, t.engines.recs[e] =
          { s.engines.recs[e] with timer := s.engines.recs[e].timer.map (· - 1) }) ∧
        t.engines.dir = s.engines.dir ∧ t.engines.mods = s.engines.mods ∧ t.engines.doms = s.engines.doms ∧
        t.ct = s.ct ∧ t.dr = s.dr ∧ t.ticks = s.ticks ∧ t.links = s.links ∧ SamePorts s t ∧ t.pins = s.pins ∧
        t.inReset = false ∧ t.pending = [])) ∧
  (∀ (s : State) (c : Instr), s.inReset = false → s.pins.refclk = false → needsRefclk c = true →
    exec c s = .next s) ∧
  (∀ (s : State) (g : Edge), s.inReset = false → s.pins.refclk = false →
    exec g.command s = .next
      (if s.pins.level g.pin = g.up then s
       else { s with pins := { s.pins.put g.up g.pin with edges := s.pins.edges ++ [g] } })) ∧
  ∀ (s : State) (g : Edge), Running s → Settled s g.pin → s.pins.level g.pin ≠ g.up →
    exec g.command { s with pins := { s.pins.put g.up g.pin with edges := s.pins.edges ++ [g] } } = exec g.command s

/-- DEVICE_RESET_ASSERTED loads the reset values of every block and drops everything in flight (Tables 1-5, 4-5, 5-8,
6-2, 10-8, R46), edges that wait among it (R96, R127), and a frame in progress is ignored to its end (R154); the pins keep
their levels (log 2) and REFCLK goes on (log 20).
DEVICE_RESET_RELEASED changes nothing but RESET_N (R177). -/
def Obligations.ResetLoadsEveryBlock : Prop :=
  (∀ s : State, ∃ t, exec .deviceResetAsserted s = .next t ∧ t.inReset = true ∧
      (∀ sl : Slot, t.ct.slots[sl] = { gen := 0, claim := none }) ∧
      (∀ m : Module, t.ct.lists[m] = [] ∧ t.ct.claimed[m] = 0 ∧
        t.ct.views[m] = { level := 0, gen := 0, fault := false } ∧ t.ct.restartMark[m] = none) ∧
      (∀ p : Port, t.ct.ports[p] = { count := 0, quota := 32, changes := [], cursor := none }) ∧
      (∀ m : Module, t.dr.dir[m] =
          { present := false, wakeUsed := false, domain := 0, supplier := none, owner := 0 } ∧
        t.ct.dir[m] = t.dr.dir[m] ∧ t.engines.dir[m] = t.dr.dir[m] ∧ t.dr.claimed[m] = 0 ∧ t.dr.eff[m] = 0 ∧
        t.dr.posted[m] = .off ∧ t.dr.views[m] = { state := .off, armed := false, woken := false } ∧
        t.dr.wakeNeed[m] = false ∧ t.dr.idle[m] = none ∧ t.dr.wakeReq[m] = false ∧ t.dr.watched[m] = false) ∧
      (∀ d : Domain, t.dr.need[d] = false ∧ t.engines.recs[d] = { queue := [], work := .idle, timer := none }) ∧
      (∀ x : SwDom, t.dr.postedNeed[x] = false ∧ t.dr.keepOn[x] = false ∧ t.engines.doms[x] =
        { state := .off, cause := none, need := false, lingerCount := none, rampTimeout := 100, offTimeout := 100,
          linger := 0, dsw := false, isoReleased := false }) ∧
      (∀ m : Module, t.modAt m =
        { state := .off, armed := false, woken := false, gen := 0, cause := none, wanted := .off, stepping := false,
          ackTimeout := 100, resetHold := 10, idleWindow := 8, clockOpen := false, resetReleased := false,
          pendingRestart := none }) ∧
      t.timebase = { tickDiv := 4, usCount := 0, quarterCount := 0, periodLength := 4 } ∧ t.ct.divider = 4 ∧
      t.ticks = { ct := false, dr := false, eng := Vector.replicate 4 false } ∧ t.links = Links.reset ∧
      t.lastServed = 3 ∧
      (∀ p : Port, t.ports[p] =
        { slot := none, holder := ⟨0, 0, 0, 0, 0, 0, 0, 0⟩, overrun := false, frameMark := false, alerts := [],
          notify := false,
          wire := if s.ports[p].wire = .deselected then .deselected else .ignored }) ∧
      t.pins = { s.pins with edges := [] } ∧ t.pending = s.pending) ∧
    ∀ s : State, exec .deviceResetReleased s = .next { s with inReset := false }

/-- After device reset every request is answered as the table of R177 says: from the state just after the release, with
request `r` alone in the slot of port `p`. -/
def Obligations.AnswersAfterReset : Prop :=
  ∀ (p : Port) (r : Request) (s : State),
    s.ct = Ct.reset → s.engines = Engines.reset → s.dr = Dr.reset → Running s →
    s.nextRequest = some (p, r) → s.ports[p].alerts = [] →
    let answersWith (c : Instr) (code : Byte) (st : Status) : Prop :=
      r.code = code → ∃ t, exec c s = .next t ∧ t.ports[p].holder.status = statusCode st
    ((r.byte 2).toNat < 32 →
      (1 ≤ (r.byte 3).toNat → (r.byte 3).toNat ≤ 3 → answersWith .place codePlace .noModule) ∧
      answersWith .restart codeRestart .noModule ∧
      answersWith .clearModuleFault codeClearModuleFault .noModule ∧
      (p = 0 → answersWith .setModuleTiming codeSetModuleTiming .noModule) ∧
      (r.code = codeQueryModule → ∃ t, exec .queryModule s = .next t ∧
        t.ports[p].holder.status = statusCode .ok ∧ t.ports[p].holder.b2.getLsbD 7 = false)) ∧
    answersWith .queryClaim codeQueryClaim .stale ∧ answersWith .release codeRelease .stale ∧
    answersWith .change codeChange .stale ∧ answersWith .renew codeRenew .stale ∧
    (p = 0 → answersWith .evict codeEvict .stale) ∧
    answersWith .browseNext codeBrowseNext .empty ∧ answersWith .takeChange codeTakeChange .empty ∧
    answersWith .takeAlert codeTakeAlert .empty ∧
    (p = 0 → (r.byte 2).toNat < 4 → answersWith .clearDomainFault codeClearDomainFault .notFaulted)

/-! ### Host ports -/

/-- FRAME_BEGIN: the port takes a copy of its answer holder and shifts it out, bit k of the frame being bit k mod 8, most
significant first, of byte k / 8 of the copy, byte 0 to byte 7 in order and 0x00 for every byte after them; it changes
nothing else (R152). A frame that begins in device reset is ignored, with HSDO high impedance for every bit (R154). With
HCS_N low already there is no fall, and nothing changes (log 18). REFCLK need not run (R154). -/
def Obligations.FrameBeginCopiesTheHolder : Prop :=
  ∀ (s : State) (p : Port),
    (s.ports[p].wire = .deselected →
      let h := s.ports[p].holder
      let bytes : List Byte := [h.status, h.echo, h.b2, h.b3, h.b4, h.b5, h.b6, h.b7]
      ∃ t, exec (.frameBegin p) s = .next t ∧
        t = s.onPort p (fun q => { q with wire := t.ports[p].wire }) ∧
        (s.inReset = true → t.ports[p].wire = .ignored ∧ ∀ k, t.ports[p].wire.hsdo k = none) ∧
        (s.inReset = false → t.ports[p].wire = .frame h ∧
          ∀ k, t.ports[p].wire.hsdo k = some ((bytes.getD (k / 8) 0x00).getMsbD (k % 8)))) ∧
    (s.ports[p].wire ≠ .deselected → exec (.frameBegin p) s = .next s)

/-- FRAME_END: the frame is classified by its complete bytes, the first matching case of R153 applying: nothing for no
byte and for a NOP; FRAME for a short frame; OVERRUN for an occupied slot; else the request enters the slot and the holder
is written WAITING, with the request's sequence and the marks left set (R153, R157). A frame that is ignored classifies
nothing (R154). Bytes are gathered eight bits to a byte, most significant first, in the order received, and the bits left
over are discarded (R152). -/
def Obligations.FrameEndClassifies : Prop :=
  (∀ (bytes : List Byte) (extra : List Bool), extra.length < 8 →
    completeBytes ((bytes.flatMap fun b => (List.range 8).map fun k => b.getMsbD k) ++ extra) = bytes) ∧
  ∀ (s : State) (p : Port) (bits : List Bool),
    (s.ports[p].wire = .ignored →
      exec (.frameEnd p bits) s = .next (s.onPort p fun q => { q with wire := .deselected })) ∧
    ∀ copy, s.ports[p].wire = .frame copy →
      ∃ t, exec (.frameEnd p bits) s = .next t ∧ t = { s with ports := t.ports } ∧
        (∀ q : Port, q ≠ p → t.ports[q] = s.ports[q]) ∧
        let old := { s.ports[p] with wire := .deselected }
        t.ports[p] =
          match completeBytes bits with
          | [] => old
          | code :: rest =>
            if code = 0x00 then old
            else if rest.length + 1 < frameLength code then { old with frameMark := true }
            else if s.ports[p].slot.isSome then { old with overrun := true }
            else
              let r : Request :=
                { code := code
                  sequence := (rest.getD 0 0).setWidth 4
                  operands := (rest.take (frameLength code - 1)).drop 1 }
              { old with
                slot := some r
                holder :=
                  { status := 0x02
                    echo := echoByte r.sequence old.overrun old.frameMark (!s.ct.ports[p].changes.isEmpty)
                      (!old.alerts.isEmpty)
                    b2 := 0, b3 := 0, b4 := 0, b5 := 0, b6 := 0, b7 := 0 } }

/-- Every request of Table 10-2 that the claim table takes is answered in its event: the request leaves the slot, its port
is the last served, byte 1 carries the sequence, both marks and both flags as they stand at the write, and the marks are
cleared; no other port changes (R26, R155, R156, R157). -/
def Obligations.EveryServedRequestIsAnswered : Prop :=
  ∀ (c : Instr) (code : Byte) (s : State) (p : Port) (r : Request),
    requestCode c = some code → Serving s p r code →
    ∃ t, exec c s = .next t ∧ t.lastServed = p ∧ (∀ q : Port, q ≠ p → t.ports[q] = s.ports[q]) ∧
      t.ports[p].slot = none ∧ t.ports[p].overrun = false ∧ t.ports[p].frameMark = false ∧
      t.ports[p].wire = s.ports[p].wire ∧
      t.ports[p].holder.status ≠ 0x02 ∧
      t.ports[p].holder.echo.setWidth 4 = r.sequence ∧
      t.ports[p].holder.echo.getLsbD 4 = s.ports[p].overrun ∧
      t.ports[p].holder.echo.getLsbD 5 = s.ports[p].frameMark ∧
      t.ports[p].holder.echo.getLsbD 6 = !t.ct.ports[p].changes.isEmpty ∧
      t.ports[p].holder.echo.getLsbD 7 = !t.ports[p].alerts.isEmpty

/-- The intake arbiter takes from the first occupied slot in the order that follows the last port served; a request left
waiting is nearer its turn once another port has been served, so it is taken within four takings (R161). -/
def Obligations.ArbiterServesInTurn : Prop :=
  (∀ (s : State) (q : Port), s.ports[q].slot.isSome = true → s.nextRequest.isSome = true) ∧
  ∀ (s : State) (p : Port) (r : Request), s.nextRequest = some (p, r) →
    s.ports[p].slot = some r ∧
      ∀ q : Port, q ≠ p → s.ports[q].slot.isSome = true →
        turn s.lastServed p < turn s.lastServed q ∧ turn p q < turn s.lastServed q ∧ turn s.lastServed q ≤ 3

/-- A code that names no command is answered BAD_COMMAND from every port, and a code 0x20 to 0x28 from HP1, HP2 or HP3 is
answered NOT_PERMITTED before any check; neither changes anything but the port's slot, marks and answer holder (R158). -/
def Obligations.RefusedCodesChangeNothing : Prop :=
  (∀ (s : State) (p : Port) (r : Request) (n : Nat), Running s → s.nextRequest = some (p, r) →
    r.code.toNat = n → (n = 0x06 ∨ n = 0x07 ∨ n = 0x0F ∨ (0x12 ≤ n ∧ n ≤ 0x1E) ∨ 0x29 ≤ n) →
    ∃ t, exec .badCommand s = .next t ∧ t.ct = s.ct ∧ t.links = s.links ∧ SameBlocks s t ∧
      Answered s t p r { status := .badCommand } id) ∧
  ∀ (c : Instr) (code : Byte) (s : State) (p : Port) (r : Request), requestCode c = some code →
    0x20 ≤ code.toNat → p ≠ 0 → Serving s p r code →
    ∃ t, exec c s = .next t ∧ t.ct = s.ct ∧ t.links = s.links ∧ SameBlocks s t ∧
      Answered s t p r { status := .notPermitted } id

/-- An alert posting that reaches its port leaves its way; its reason joins the subject's reasons, or the subject joins the
set, and no other subject changes (R162). TAKE ALERT removes the lowest subject of the requester's set with all its
reasons and returns them, or answers EMPTY (R163). -/
def Obligations.AlertsArePostedAndTaken : Prop :=
  (∀ (s : State) (p : Port) (sub : Subject) (why : Reason), Running s → AlertSetsRight s →
    { port := p, subject := sub, reason := why } ∈ s.links.alerts →
    ∃ t, exec (.alertPostingReachesPort p sub why) s = .next t ∧ t.ct = s.ct ∧ SameBlocks s t ∧
      t.lastServed = s.lastServed ∧
      t.links = { s.links with alerts := s.links.alerts.erase { port := p, subject := sub, reason := why } } ∧
      (∀ q : Port, q ≠ p → t.ports[q] = s.ports[q]) ∧
      t.ports[p] = { s.ports[p] with alerts := t.ports[p].alerts } ∧
      (t.ports[p].alerts.map fun a => subjectCode a.subject).Pairwise (· < ·) ∧
      ∀ a : AlertEntry, a ∈ t.ports[p].alerts ↔
        (a ∈ s.ports[p].alerts ∧ a.subject ≠ sub) ∨
        (a.subject = sub ∧ ∃ old : Byte, a.reasons = old ||| reasonBit why ∧
          ({ subject := sub, reasons := old } ∈ s.ports[p].alerts ∨
            (old = 0 ∧ ∀ b ∈ s.ports[p].alerts, b.subject ≠ sub)))) ∧
  (∀ (s : State) (p : Port) (r : Request), Serving s p r codeTakeAlert → s.ports[p].alerts = [] →
    ∃ t, exec .takeAlert s = .next t ∧ t.ct = s.ct ∧ t.links = s.links ∧ SameBlocks s t ∧
      Answered s t p r { status := .empty } id) ∧
  ∀ (s : State) (p : Port) (r : Request) (a : AlertEntry) (rest : List AlertEntry),
    Serving s p r codeTakeAlert → s.ports[p].alerts = a :: rest →
    ∃ t, exec .takeAlert s = .next t ∧ t.ct = s.ct ∧ t.links = s.links ∧ SameBlocks s t ∧
      Answered s t p r { status := .ok, b2 := byteOf (subjectCode a.subject), b3 := a.reasons }
        (fun q => { q with alerts := rest })

/-- SET NOTIFY: 0x00 and 0x01 set the requester's notify enable and answer OK with it; any other value is answered
BAD_ARGUMENT with the enable unchanged; nothing else changes, and HINT_N is asserted just while notify is on and the
change set or the alert set is nonempty (R164, R165). -/
def Obligations.SetNotifySetsTheEnable : Prop :=
  ∀ (s : State) (p : Port) (r : Request), Serving s p r codeSetNotify →
    ∃ t, exec .setNotify s = .next t ∧ t.ct = s.ct ∧ t.links = s.links ∧ SameBlocks s t ∧
      (r.byte 2 = 0x00 → Answered s t p r { status := .ok, b2 := 0 } (fun q => { q with notify := false })) ∧
      (r.byte 2 = 0x01 → Answered s t p r { status := .ok, b2 := 1 } (fun q => { q with notify := true })) ∧
      (r.byte 2 ≠ 0x00 → r.byte 2 ≠ 0x01 → Answered s t p r { status := .badArgument } id) ∧
      (t.hintAsserted p = true ↔
        t.ports[p].notify = true ∧ (t.ct.ports[p].changes ≠ [] ∨ t.ports[p].alerts ≠ []))

/-- DETACH frees every slot the requester holds, empties its change set and its alert set, sets its cursor to none, and
answers the two numbers; claims, counts, quotas and change sets of other ports, the module records and the restart marks
stay. Another port's cursor that stood after a freed claim ends after the nearest claim before it that remains, or before
first (R17, R166). -/
def Obligations.DetachFreesTheRequestersClaims : Prop :=
  ∀ (s : State) (p : Port) (r : Request), Serving s p r codeDetach → CountsRight s → ListsRight s → ChangeSetsRight s →
    CursorsRight s →
    ∃ t, exec .detach s = .next t ∧ SameBlocks s t ∧ SameRecords s.ct t.ct ∧ Relevelled s t ∧
      (∀ sl : Slot, t.ct.slots[sl] =
        if (s.ct.claimAt sl).any (fun c => decide (c.holder = p)) then
          { gen := s.ct.slots[sl].gen + 1, claim := none }
        else s.ct.slots[sl]) ∧
      (∀ m : Module, t.ct.lists[m] =
        s.ct.lists[m].filter fun sl => !(s.ct.claimAt sl).any fun c => decide (c.holder = p)) ∧
      t.ct.ports[p] = { count := 0, quota := s.ct.ports[p].quota, changes := [], cursor := none } ∧
      (∀ q : Port, q ≠ p → t.ct.ports[q] = { s.ct.ports[q] with
        cursor := s.ct.ports[q].cursor.map
          (cursorPast s.ct fun sl => (s.ct.claimAt sl).any fun c => decide (c.holder = p)) }) ∧
      Answered s t p r
        { status := .ok, b2 := byteOf s.ct.ports[p].count, b3 := byteOf s.ports[p].alerts.length }
        (fun q => { q with alerts := [] })

/-! ### Claim requests -/

/-- A PLACE that passes its checks fills the lowest-numbered FREE slot, joins the tail of its module's list and raises the
holder's count; it starts GRANTED just where the module view satisfies it, and the answer says so (R5, R29, R30). -/
def Obligations.PlaceFillsTheLowestFreeSlot : Prop :=
  ∀ (s : State) (p : Port) (r : Request) (m : Module) (l : Level) (sl : Slot),
    Serving s p r codePlace → (r.byte 2).toNat = m.val → (r.byte 3).toNat = l.val → 1 ≤ l →
    s.ct.dir[m].present = true → s.ct.views[m].fault = false → s.domState s.ct.dir[m].domain ≠ .fault →
    (l = 2 → s.ct.dir[m].wakeUsed = true) → s.ct.ports[p].count < s.ct.ports[p].quota →
    s.ct.claimAt sl = none → (∀ x : Slot, x < sl → s.ct.claimAt x ≠ none) →
    let granted := decide (l ≤ s.ct.views[m].level)
    let c : Claim :=
      { holder := p, module := m, level := l, leaseLength := (r.half 4).toNat
        leaseLeft := if (r.half 4).toNat = 0 then none else some (r.half 4).toNat
        tag := r.half 6, genSeen := if granted then some s.ct.views[m].gen else none
        state := if granted then .granted else .pending }
    ∃ t, exec .place s = .next t ∧ SameBlocks s t ∧ SameRecords s.ct t.ct ∧ Relevelled s t ∧
      ClaimNow s.ct t.ct sl c ∧
      t.ct.lists[m] = s.ct.lists[m] ++ [sl] ∧ (∀ k : Module, k ≠ m → t.ct.lists[k] = s.ct.lists[k]) ∧
      t.ct.ports[p] = { s.ct.ports[p] with count := s.ct.ports[p].count + 1 } ∧
      (∀ q : Port, q ≠ p → t.ct.ports[q] = s.ct.ports[q]) ∧
      Answered s t p r
        { status := .ok, b2 := byteOf sl.val, b3 := s.ct.slots[sl].gen
          b4 := if granted then 0x02 else 0x01, b5 := s.ct.views[m].gen } id

/-- A PLACE that fails a check is answered with the status of the first check it fails, and changes nothing but the port's
slot, marks and answer holder (R26, R29). -/
def Obligations.PlaceReportsTheFirstFailingCheck : Prop :=
  ∀ (s : State) (p : Port) (r : Request) (st : Status), Serving s p r codePlace →
    (if 32 ≤ (r.byte 2).toNat ∨ (r.byte 3).toNat = 0 ∨ 4 ≤ (r.byte 3).toNat then st = .badArgument
     else ∀ m : Module, (r.byte 2).toNat = m.val →
      if s.ct.dir[m].present = false then st = .noModule
      else if s.ct.views[m].fault = true ∨ s.domState s.ct.dir[m].domain = .fault then st = .faulted
      else if (r.byte 3).toNat = 2 ∧ s.ct.dir[m].wakeUsed = false then st = .badArgument
      else if s.ct.ports[p].quota ≤ s.ct.ports[p].count then st = .quota
      else st = .full ∧ ∀ sl : Slot, s.ct.claimAt sl ≠ none) →
    ∃ t, exec .place s = .next t ∧ t.ct = s.ct ∧ t.links = s.links ∧ SameBlocks s t ∧
      Answered s t p r { status := st } id

/-- A CHANGE that passes its checks: to the same level it leaves the claim as it is; to another it sets the level and
decides the state afresh from the module view, recording the view's generation where the claim becomes GRANTED; it sets no
mark and leaves list, lease and tag (R32, R33, R34). -/
def Obligations.ChangeDecidesAfresh : Prop :=
  ∀ (s : State) (p : Port) (r : Request) (sl : Slot) (c : Claim) (l : Level),
    Serving s p r codeChange → Names s r sl c → c.holder = p → c.state.live = true →
    (r.byte 4).toNat = l.val → 1 ≤ l → (l = 2 → s.ct.dir[c.module].wakeUsed = true) →
    let v := s.ct.views[c.module]
    let new : Claim :=
      if l = c.level then c
      else if l ≤ v.level then
        { c with level := l, state := .granted, genSeen := if c.state = .pending then some v.gen else c.genSeen }
      else { c with level := l, state := .pending }
    ∃ t, exec .change s = .next t ∧ SameBlocks s t ∧ SameRecords s.ct t.ct ∧ ClaimNow s.ct t.ct sl new ∧
      t.ct.lists = s.ct.lists ∧ t.ct.ports = s.ct.ports ∧
      (if l = c.level then t.ct.claimed = s.ct.claimed ∧ t.links = s.links else Relevelled s t) ∧
      Answered s t p r
        { status := .ok
          b2 := claimByte (claimStateCode new.state) 0 (levelCode l) new.genSeen.isSome
          b3 := new.genSeen.getD 0, b4 := v.gen } id

/-- A RENEW that passes its checks restarts the lease at the operand, or at the lease length for operand 0, and changes
nothing else (R36, R37). -/
def Obligations.RenewRestartsTheLease : Prop :=
  ∀ (s : State) (p : Port) (r : Request) (sl : Slot) (c : Claim),
    Serving s p r codeRenew → Names s r sl c → c.holder = p → c.state.live = true → c.leaseLength ≠ 0 →
    let n := if (r.half 4).toNat = 0 then c.leaseLength else (r.half 4).toNat
    ∃ t, exec .renew s = .next t ∧ SameBlocks s t ∧ SameRecords s.ct t.ct ∧ t.links = s.links ∧
      ClaimNow s.ct t.ct sl { c with leaseLength := n, leaseLeft := some n } ∧
      t.ct.lists = s.ct.lists ∧ t.ct.claimed = s.ct.claimed ∧ t.ct.ports = s.ct.ports ∧
      Answered s t p r
        { status := .ok, b2 := if c.state = .granted then 0x02 else 0x01
          b3 := BitVec.ofNat 8 (n / 256), b4 := BitVec.ofNat 8 n
          b5 := BitVec.ofNat 8 (n / 256), b6 := BitVec.ofNat 8 n } id

/-- A RELEASE by the holder frees the slot, whatever the claim's state, and answers the prior state, the module and the
slot's new generation (R16, R38). -/
def Obligations.ReleaseFreesTheSlot : Prop :=
  ∀ (s : State) (p : Port) (r : Request) (sl : Slot) (c : Claim),
    Serving s p r codeRelease → Names s r sl c → c.holder = p →
    ∃ t, exec .release s = .next t ∧ SameBlocks s t ∧ SameRecords s.ct t.ct ∧ Relevelled s t ∧
      Freed s.ct t.ct sl c ∧
      Answered s t p r
        { status := .ok, b2 := claimByte (claimStateCode c.state) (breakReasonCode c.state) 0 false
          b3 := byteOf c.module.val, b4 := s.ct.slots[sl].gen + 1 } id

/-- CHANGE, RENEW and RELEASE that fail a check are answered with the status of the first check they fail: STALE,
NOT_PERMITTED, NOT_LIVE with the dead state and break reason, then BAD_ARGUMENT; nothing but the port's slot, marks and
answer holder changes (R4, R26, R27, R32, R36, R38). -/
def Obligations.HolderCommandsReportTheFirstFailingCheck : Prop :=
  ∀ (s : State) (p : Port) (r : Request) (i : Instr) (code : Byte) (a : Answer),
    (i = .change ∧ code = codeChange ∨ i = .renew ∧ code = codeRenew ∨ i = .release ∧ code = codeRelease) →
    Serving s p r code →
    (NamesNone s r ∧ a = { status := .stale } ∨
      ∃ sl : Slot, ∃ c ∈ s.ct.claimAt sl, Names s r sl c ∧
        if c.holder ≠ p then a = { status := .notPermitted }
        else i ≠ .release ∧
          if c.state.live = false then
            a = { status := .notLive, b2 := claimByte (claimStateCode c.state) (breakReasonCode c.state) 0 false }
          else a = { status := .badArgument } ∧
            (i = .renew → c.leaseLength = 0) ∧
            (i = .change → (r.byte 4).toNat = 0 ∨ 4 ≤ (r.byte 4).toNat ∨
              ((r.byte 4).toNat = 2 ∧ s.ct.dir[c.module].wakeUsed = false))) →
    ∃ t, exec i s = .next t ∧ t.ct = s.ct ∧ t.links = s.links ∧ SameBlocks s t ∧ Answered s t p r a id

/-- QUERY CLAIM, from any port: STALE where the handle does not resolve, else OK with the claim's fields as they stand;
nothing is changed (R40). -/
def Obligations.QueryClaimReportsTheClaim : Prop :=
  ∀ (s : State) (p : Port) (r : Request), Serving s p r codeQueryClaim →
    ∃ t, exec .queryClaim s = .next t ∧ t.ct = s.ct ∧ t.links = s.links ∧ SameBlocks s t ∧
      (NamesNone s r → Answered s t p r { status := .stale } id) ∧
      ∀ sl : Slot, ∀ c ∈ s.ct.claimAt sl, Names s r sl c →
        let value :=
          if c.leaseLength = 0 then 0 else if c.state.live then c.leaseLeft.getD 0 else c.leaseLength
        Answered s t p r
          { status := .ok
            b2 := claimByte (claimStateCode c.state) (breakReasonCode c.state) (levelCode c.level) false
            b3 := BitVec.ofNat 8 (64 * c.holder.val + c.module.val)
            b4 := BitVec.ofNat 8 (value / 256), b5 := BitVec.ofNat 8 value
            b6 := BitVec.ofNat 8 (c.tag.toNat / 256), b7 := BitVec.ofNat 8 c.tag.toNat } id

/-- QUERY MODULE, from any port, about any module: each field as it stands at its owning block, at the bits of Table 10-6;
an index above 31 is BAD_ARGUMENT; nothing is changed (R71). -/
def Obligations.QueryModuleReportsEveryBlock : Prop :=
  ∀ (s : State) (p : Port) (r : Request), Serving s p r codeQueryModule →
    ∃ t, exec .queryModule s = .next t ∧ t.ct = s.ct ∧ t.links = s.links ∧ SameBlocks s t ∧
      (32 ≤ (r.byte 2).toNat → Answered s t p r { status := .badArgument } id) ∧
      ∀ m : Module, (r.byte 2).toNat = m.val →
        let d := s.ct.dir[m]
        let q := s.modAt m
        let mark := s.ct.restartMark[m]
        Answered s t p r
          { status := .ok
            b2 := BitVec.ofNat 8
              (128 * d.present.toNat + 64 * d.wakeUsed.toNat + 16 * d.domain.val + 4 * d.owner.val)
            b3 := match d.supplier with
              | none => 0
              | some u => BitVec.ofNat 8 (128 + u.val)
            b4 := BitVec.ofNat 8
              (64 * s.dr.eff[m].val + 32 * q.stepping.toNat + 16 * q.woken.toNat + 8 * q.armed.toNat +
                (physStateCode q.state).toNat)
            b5 := BitVec.ofNat 8
              (64 * s.ct.claimed[m].val + 32 * mark.isSome.toNat + 8 * (mark.getD 0).val +
                (modCauseCode q.cause).toNat)
            b6 := BitVec.ofNat 8 s.ct.lists[m].length
            b7 := q.gen } id

/-- QUERY DOMAIN, from any port: the domain's fields as they stand at their owning blocks, ON with power-good high and
nothing else for D0; an index above 3 is BAD_ARGUMENT; nothing is changed (R97, R114). -/
def Obligations.QueryDomainReportsEveryBlock : Prop :=
  ∀ (s : State) (p : Port) (r : Request), Serving s p r codeQueryDomain →
    ∃ t, exec .queryDomain s = .next t ∧ t.ct = s.ct ∧ t.links = s.links ∧ SameBlocks s t ∧
      (4 ≤ (r.byte 2).toNat → Answered s t p r { status := .badArgument } id) ∧
      let out (d : Domain) (which : PhysState → Bool) : Nat :=
        (allModules.filter fun m =>
          s.ct.dir[m].present && decide (s.ct.dir[m].domain = d) && which (s.modAt m).state).length
      let up : PhysState → Bool := fun st => decide (st = .held ∨ st = .paused ∨ st = .running)
      ((r.byte 2).toNat = 0 →
        Answered s t p r
          { status := .ok, b2 := BitVec.ofNat 8 (64 * s.dr.need[(0 : Domain)].toNat + 8 + 2)
            b3 := byteOf (out 0 up), b4 := byteOf (out 0 fun st => decide (st = .fault)), b5 := 0, b6 := 0 } id) ∧
      ∀ x : SwDom, (r.byte 2).toNat = x.val + 1 →
        let q := s.engines.doms[x]
        Answered s t p r
          { status := .ok
            b2 := BitVec.ofNat 8
              (128 * s.dr.keepOn[x].toNat + 64 * s.dr.need[x.domain].toNat + 16 * (domCauseCode q.cause).toNat +
                8 * s.pins.dpg[x].toNat + (domStateCode q.state).toNat)
            b3 := byteOf (out x.domain up), b4 := byteOf (out x.domain fun st => decide (st = .fault))
            b5 := byteOf (q.lingerCount.getD 0), b6 := byteOf (x.val + 1) } id

/-- BROWSE sets the requester's cursor before the first claim of the module's list and answers its length and claimed
level; a module index above 31 is BAD_ARGUMENT with the cursor as it was; nothing else changes (R41). -/
def Obligations.BrowseSetsTheCursor : Prop :=
  ∀ (s : State) (p : Port) (r : Request), Serving s p r codeBrowse →
    ∃ t, exec .browse s = .next t ∧ t.links = s.links ∧ SameBlocks s t ∧
      (32 ≤ (r.byte 2).toNat → t.ct = s.ct ∧ Answered s t p r { status := .badArgument } id) ∧
      ∀ m : Module, (r.byte 2).toNat = m.val →
        t.ct.ports[p] = { s.ct.ports[p] with cursor := some { module := m, after := none } } ∧
        (∀ q : Port, q ≠ p → t.ct.ports[q] = s.ct.ports[q]) ∧ t.ct = { s.ct with ports := t.ct.ports } ∧
        Answered s t p r
          { status := .ok, b2 := r.byte 2, b3 := byteOf s.ct.lists[m].length, b4 := byteOf s.ct.claimed[m].val } id

/-- BROWSE NEXT returns the head of the list for a cursor before first, the claim after `x` for a cursor after `x`, and
EMPTY with the cursor unmoved where no claim follows or there is no cursor; the cursor moves to the claim returned, whose
state is PENDING or GRANTED, and nothing else changes (R42). -/
def Obligations.BrowseNextReturnsTheFollowingClaim : Prop :=
  ∀ (s : State) (p : Port) (r : Request), Serving s p r codeBrowseNext → ListsRight s →
    ∃ t, exec .browseNext s = .next t ∧ t.links = s.links ∧ SameBlocks s t ∧
      let nothing := t.ct = s.ct ∧ Answered s t p r { status := .empty } id
      let returned (m : Module) (sl : Slot) : Prop :=
        t.ct.ports[p] = { s.ct.ports[p] with cursor := some { module := m, after := some sl } } ∧
        (∀ q : Port, q ≠ p → t.ct.ports[q] = s.ct.ports[q]) ∧ t.ct = { s.ct with ports := t.ct.ports } ∧
        ∃ c ∈ s.ct.claimAt sl, c.state.live = true ∧
          Answered s t p r
            { status := .ok, b2 := byteOf sl.val, b3 := s.ct.slots[sl].gen
              b4 := claimByte (claimStateCode c.state) 0 (levelCode c.level) false
              b5 := byteOf c.holder.val
              b6 := BitVec.ofNat 8 (c.tag.toNat / 256), b7 := BitVec.ofNat 8 c.tag.toNat } id
      (s.ct.ports[p].cursor = none → nothing) ∧
      (∀ m : Module, s.ct.ports[p].cursor = some { module := m, after := none } →
        (s.ct.lists[m] = [] → nothing) ∧ ∀ sl ∈ s.ct.lists[m].head?, returned m sl) ∧
      ∀ (m : Module) (x : Slot) (before rest : List Slot),
        s.ct.ports[p].cursor = some { module := m, after := some x } → s.ct.lists[m] = before ++ x :: rest →
        (rest = [] → nothing) ∧ ∀ sl ∈ rest.head?, returned m sl

/-- A claim that leaves a list loses no later claim for a browser: a cursor whose following claim stays has the same
following claim after the removal, and one whose following claim leaves has the claim after that one (R24). -/
def Obligations.RemovalsLoseNoLaterClaim : Prop :=
  ∀ (ct : Ct) (m : Module) (sl : Slot) (q : Port) (cur : Cursor),
    ct.lists[m].Nodup → sl ∈ ct.lists[m] → ct.ports[q].cursor = some cur → cur.module = m →
    (∀ x ∈ cur.after, x ∈ ct.lists[m]) →
    ∃ cur', (ct.leaveList m sl).ports[q].cursor = some cur' ∧ cur'.module = m ∧
      (∀ x ∈ cur'.after, x ∈ (ct.leaveList m sl).lists[m]) ∧
      (ct.following cur ≠ some sl → (ct.leaveList m sl).following cur' = ct.following cur) ∧
      (ct.following cur = some sl →
        (ct.leaveList m sl).following cur' = ct.following { module := m, after := some sl })

/-- TAKE CHANGE removes the lowest slot of the requester's change set and reports its claim as it stands, or answers EMPTY;
the claim and everything else stay (R43). -/
def Obligations.TakeChangeReportsTheLowestSlot : Prop :=
  ∀ (s : State) (p : Port) (r : Request), Serving s p r codeTakeChange → ChangeSetsRight s →
    ∃ t, exec .takeChange s = .next t ∧ t.links = s.links ∧ SameBlocks s t ∧
      (s.ct.ports[p].changes = [] → t.ct = s.ct ∧ Answered s t p r { status := .empty } id) ∧
      ∀ sl ∈ s.ct.ports[p].changes, ∀ c ∈ s.ct.claimAt sl, (∀ x ∈ s.ct.ports[p].changes, sl ≤ x) →
        t.ct.ports[p] = { s.ct.ports[p] with changes := s.ct.ports[p].changes.filter (· ≠ sl) } ∧
        (∀ q : Port, q ≠ p → t.ct.ports[q] = s.ct.ports[q]) ∧ t.ct = { s.ct with ports := t.ct.ports } ∧
        Answered s t p r
          { status := .ok, b2 := byteOf sl.val, b3 := s.ct.slots[sl].gen
            b4 := claimByte (claimStateCode c.state) (breakReasonCode c.state) (levelCode c.level) c.genSeen.isSome
            b5 := byteOf c.module.val, b6 := c.genSeen.getD 0 } id

/-! ### Control operations, restart and clears -/

/-- EVICT from HP0: a live claim dies into EVICTED, leaves its list, and is marked unless HP0 holds it; a dead claim's slot
is freed; the answer gives the state, holder and module, and the slot's generation after. A handle that does not resolve is
answered STALE, and nothing changes (R4, R15, R16, R21, R174). -/
def Obligations.EvictEndsOrFreesTheClaim : Prop :=
  (∀ (s : State) (r : Request), Serving s 0 r codeEvict → NamesNone s r →
    ∃ t, exec .evict s = .next t ∧ t.ct = s.ct ∧ t.links = s.links ∧ SameBlocks s t ∧
      Answered s t 0 r { status := .stale } id) ∧
  ∀ (s : State) (r : Request) (sl : Slot) (c : Claim), Serving s 0 r codeEvict → Names s r sl c →
    ∃ t, exec .evict s = .next t ∧ SameBlocks s t ∧ SameRecords s.ct t.ct ∧ Relevelled s t ∧
      (c.state.live = true →
        ClaimNow s.ct t.ct sl { c with state := .evicted, leaseLeft := none } ∧
        LeftList s.ct t.ct c.module sl ∧ SameCounts s.ct t.ct ∧
        (∀ q : Port, q ≠ c.holder ∨ c.holder = 0 → t.ct.ports[q].changes = s.ct.ports[q].changes) ∧
        (c.holder ≠ 0 → ∀ x : Slot,
          x ∈ t.ct.ports[c.holder].changes ↔ x = sl ∨ x ∈ s.ct.ports[c.holder].changes) ∧
        Answered s t 0 r
          { status := .ok, b2 := 0x05, b3 := holderByte c.holder c.module, b4 := s.ct.slots[sl].gen } id) ∧
      (c.state.live = false →
        Freed s.ct t.ct sl c ∧
        Answered s t 0 r
          { status := .ok, b2 := claimByte (claimStateCode c.state) (breakReasonCode c.state) 0 false
            b3 := holderByte c.holder c.module, b4 := s.ct.slots[sl].gen + 1 } id)

/-- RETIRE ALL from HP0 frees every slot that is not FREE: every list and change set becomes empty, every count 0, every
cursor none, each freed slot's generation rises by one; one claimed-level notice of 0 goes out for each module whose
claimed level was above 0; quotas, views, marks and configuration stay (R17, R176). -/
def Obligations.RetireAllFreesEverySlot : Prop :=
  ∀ (s : State) (r : Request), Serving s 0 r codeRetireAll → CountsRight s → ListsRight s → ChangeSetsRight s →
    ∃ t, exec .retireAll s = .next t ∧ SameBlocks s t ∧ SameRecords s.ct t.ct ∧
      (∀ sl : Slot, t.ct.slots[sl] =
        if (s.ct.claimAt sl).isSome then { gen := s.ct.slots[sl].gen + 1, claim := none } else s.ct.slots[sl]) ∧
      (∀ m : Module, t.ct.lists[m] = [] ∧ t.ct.claimed[m] = 0) ∧
      (∀ q : Port, t.ct.ports[q] = { count := 0, quota := s.ct.ports[q].quota, changes := [], cursor := none }) ∧
      t.links = { s.links with
        claimedLevels := s.links.claimedLevels ++
          (allModules.filter fun m => s.ct.claimed[m] ≠ 0).map fun m => (m, 0) } ∧
      Answered s t 0 r
        { status := .ok
          b2 := byteOf (allSlots.filter fun sl => (s.ct.claimAt sl).isSome).length } id

/-- SET QUOTA from HP0 sets the port's quota and answers port, quota and count; a port above 3 or a quota above 128 is
BAD_ARGUMENT; no claim is touched (R173). -/
def Obligations.SetQuotaSetsTheQuota : Prop :=
  ∀ (s : State) (r : Request), Serving s 0 r codeSetQuota →
    ∃ t, exec .setQuota s = .next t ∧ t.links = s.links ∧ SameBlocks s t ∧
      (4 ≤ (r.byte 2).toNat ∨ 128 < (r.byte 3).toNat → t.ct = s.ct ∧ Answered s t 0 r { status := .badArgument } id) ∧
      ∀ p : Port, (r.byte 2).toNat = p.val → (r.byte 3).toNat ≤ 128 →
        t.ct.ports[p] = { s.ct.ports[p] with quota := (r.byte 3).toNat } ∧
        (∀ q : Port, q ≠ p → t.ct.ports[q] = s.ct.ports[q]) ∧ t.ct = { s.ct with ports := t.ct.ports } ∧
        Answered s t 0 r
          { status := .ok, b2 := r.byte 2, b3 := r.byte 3, b4 := byteOf s.ct.ports[p].count } id

/-- SET TICK from HP0 with a divider of 1 to 64 answers the new divider and the one it replaced and hands the new one to
the timebase; 0 and above 64 are BAD_ARGUMENT. The hand-over sets TICKDIV and leaves the period in progress. TICK ends the
period: the counts return to 0, the next period takes the length TICKDIV has then, and the tick sets out for the claim
table, the demand resolver and the four engines. Units that pass with a timed command are counted within the period, and
where they reach its end they bring its tick there and go on in the next period, so that no tick is lost (R46, R47, R48). -/
def Obligations.TheDividerSetsTheNextPeriod : Prop :=
  (∀ (s : State) (r : Request), Serving s 0 r codeSetTick →
    ∃ t, exec .setTick s = .next t ∧ SameBlocks s t ∧
      (1 ≤ (r.byte 2).toNat → (r.byte 2).toNat ≤ 64 →
        t.ct = { s.ct with divider := (r.byte 2).toNat } ∧
        t.links = { s.links with dividers := s.links.dividers ++ [(r.byte 2).toNat] } ∧
        Answered s t 0 r { status := .ok, b2 := r.byte 2, b3 := byteOf s.ct.divider } id) ∧
      ((r.byte 2).toNat = 0 ∨ 64 < (r.byte 2).toNat →
        t.ct = s.ct ∧ t.links = s.links ∧ Answered s t 0 r { status := .badArgument } id)) ∧
  (∀ (s : State) (n : Nat) (rest : List Nat), Running s → s.links.dividers = n :: rest →
    exec .setTickHandover s = .next { s with
      links := { s.links with dividers := rest }
      timebase := { s.timebase with tickDiv := n } }) ∧
  (∀ s : State, Running s → s.ticks = { ct := false, dr := false, eng := Vector.replicate 4 false } →
    ∃ t, exec .tick s = .next t ∧
      t.timebase = { s.timebase with usCount := 0, quarterCount := 0, periodLength := s.timebase.tickDiv } ∧
      t.ticks.ct = true ∧ t.ticks.dr = true ∧ (∀ e : Domain, t.ticks.eng[e] = true) ∧
      (∀ e : Domain, t.engines.recs[e] =
        { s.engines.recs[e] with timer := s.engines.recs[e].timer.map (· - s.timebase.left) }) ∧
      t.engines.mods = s.engines.mods ∧ t.engines.doms = s.engines.doms ∧ t.engines.dir = s.engines.dir ∧
      t.ct = s.ct ∧ t.dr = s.dr ∧ t.links = s.links ∧ SamePorts s t ∧ t.pins = s.pins ∧ t.inReset = false ∧
      t.pending = s.pending) ∧
  (∀ (s : State) (d : Nat), d < s.timebase.left → TimebaseRight s →
    (s.elapse d).timebase.elapsed = s.timebase.elapsed + d ∧ (s.elapse d).ticks = s.ticks ∧
      (s.elapse d).timebase.tickDiv = s.timebase.tickDiv ∧
      (s.elapse d).timebase.periodLength = s.timebase.periodLength) ∧
  (∀ (s t : State) (d : Nat), Running s → TimebaseRight s → s.timebase.left ≤ d →
    exec .tick s = .next t → s.elapse d = t.elapse (d - s.timebase.left)) ∧
  ∀ s : State, Running s →
    exec .tick s = exec .tick s.takeWaitingTicks ∧ s.takeWaitingTicks.inReset = false ∧
      s.takeWaitingTicks.ticks = { ct := false, dr := false, eng := Vector.replicate 4 false }

/-- SET MODULE from HP0: BAD_ARGUMENT for an operand out of range, IN_USE for a module that is not quiet, BAD_ARGUMENT for a
supplier that does not fit or an absence that present dependents forbid; a request that passes writes the claim table's
copy and hands the record to the demand resolver and to the engines of the old and the new domain (R57, R74, R168, R169). -/
def Obligations.SetModuleHandsTheRecordOver : Prop :=
  ∀ (s : State) (r : Request), Serving s 0 r codeSetModule →
    ∃ t, exec .setModule s = .next t ∧ SameBlocks s t ∧
      (32 ≤ (r.byte 2).toNat ∨ 4 ≤ (r.byte 4).toNat ∨ 64 ≤ (r.byte 3).toNat ∨
          (32 ≤ (r.byte 5).toNat ∧ (r.byte 5).toNat ≠ 255) →
        t.ct = s.ct ∧ t.links = s.links ∧ Answered s t 0 r { status := .badArgument } id) ∧
      ∀ (m : Module) (d : DirRecord), (r.byte 2).toNat = m.val → (r.byte 4).toNat = d.domain.val →
        (r.byte 3).toNat / 16 = d.owner.val → d.present = (r.byte 3).getLsbD 0 → d.wakeUsed = (r.byte 3).getLsbD 1 →
        (d.supplier = none ∧ r.byte 5 = 0xFF ∨ ∃ u, d.supplier = some u ∧ (r.byte 5).toNat = u.val) →
        let quiet := (s.modAt m).state = .off ∧ (s.modAt m).stepping = false ∧
          s.hasEntry (s.engineOf m) m = false ∧ (s.modAt m).pendingRestart = none ∧
          (∀ sl : Slot, ∀ c ∈ s.ct.claimAt sl, c.module ≠ m) ∧ s.ct.restartMark[m] = none
        let fits := (∀ u ∈ d.supplier, u < m ∧ (d.present = true → s.ct.dir[u].present = true)) ∧
          (d.present = false → ∀ k : Module, s.ct.dir[k].present = true → s.ct.dir[k].supplier ≠ some m)
        (¬quiet → t.ct = s.ct ∧ t.links = s.links ∧ Answered s t 0 r { status := .inUse } id) ∧
        (quiet → ¬fits → t.ct = s.ct ∧ t.links = s.links ∧ Answered s t 0 r { status := .badArgument } id) ∧
        (quiet → fits →
          let old := s.ct.dir[m].domain
          t.ct.dir[m] = d ∧ (∀ k : Module, k ≠ m → t.ct.dir[k] = s.ct.dir[k]) ∧ t.ct = { s.ct with dir := t.ct.dir } ∧
          t.links.modulesToDr = s.links.modulesToDr ++ [(m, d)] ∧
          (∀ e : Domain, t.links.ctToEngine[e] = s.links.ctToEngine[e] ++
            if e = old ∨ e = d.domain then [.setModule m d old] else []) ∧
          t.links = { s.links with modulesToDr := t.links.modulesToDr, ctToEngine := t.links.ctToEngine } ∧
          Answered s t 0 r { status := .ok, b2 := r.byte 2 } id)

/-- SET MODULE TIMING, SET DOMAIN and SET KEEP-ON from HP0: each is checked in its order, and one that passes hands its
values to the engine of the module's domain, to the domain's engine, and to the demand resolver, changing nothing at the
claim table (R170, R171, R172). -/
def Obligations.SettingsAreHandedOver : Prop :=
  (∀ (s : State) (r : Request), Serving s 0 r codeSetModuleTiming →
    ∃ t, exec .setModuleTiming s = .next t ∧ t.ct = s.ct ∧ SameBlocks s t ∧
      let ack := (r.half 3).toNat
      let fits := 1 ≤ ack ∧ ack ≤ 1023 ∧ r.byte 5 ≠ 0 ∧ r.byte 6 ≠ 0
      (32 ≤ (r.byte 2).toNat → t.links = s.links ∧ Answered s t 0 r { status := .badArgument } id) ∧
      ∀ m : Module, (r.byte 2).toNat = m.val →
        (s.ct.dir[m].present = false → t.links = s.links ∧ Answered s t 0 r { status := .noModule } id) ∧
        (s.ct.dir[m].present = true → ¬fits →
          t.links = s.links ∧ Answered s t 0 r { status := .badArgument } id) ∧
        (s.ct.dir[m].present = true → fits →
          t.links = { s.links with
            ctToEngine := modifyAt s.links.ctToEngine s.ct.dir[m].domain
              (· ++ [.setTiming m ack (r.byte 5).toNat (r.byte 6).toNat]) } ∧
          Answered s t 0 r { status := .ok, b2 := r.byte 2 } id)) ∧
  (∀ (s : State) (r : Request), Serving s 0 r codeSetDomain →
    ∃ t, exec .setDomain s = .next t ∧ t.ct = s.ct ∧ SameBlocks s t ∧
      let ramp := (r.half 3).toNat
      let off := (r.half 5).toNat
      let fits := 1 ≤ ramp ∧ ramp ≤ 1023 ∧ 1 ≤ off ∧ off ≤ 1023
      ((r.byte 2).toNat = 0 ∨ 4 ≤ (r.byte 2).toNat ∨ ¬fits →
        t.links = s.links ∧ Answered s t 0 r { status := .badArgument } id) ∧
      ∀ x : SwDom, (r.byte 2).toNat = x.val + 1 → fits →
        t.links = { s.links with
          ctToEngine := modifyAt s.links.ctToEngine x.domain (· ++ [.setDomain x ramp off (r.byte 7).toNat]) } ∧
        Answered s t 0 r { status := .ok, b2 := r.byte 2 } id) ∧
  ∀ (s : State) (r : Request), Serving s 0 r codeSetKeepOn →
    ∃ t, exec .setKeepOn s = .next t ∧ t.ct = s.ct ∧ SameBlocks s t ∧
      ((r.byte 2).toNat = 0 ∨ 4 ≤ (r.byte 2).toNat ∨ 2 ≤ (r.byte 3).toNat →
        t.links = s.links ∧ Answered s t 0 r { status := .badArgument } id) ∧
      ∀ (x : SwDom) (on : Bool), (r.byte 2).toNat = x.val + 1 → (r.byte 3).toNat = on.toNat →
        t.links = { s.links with keepOnToDr := s.links.keepOnToDr ++ [(x, on)] } ∧
        Answered s t 0 r
          { status := .ok, b2 := r.byte 2, b3 := r.byte 3, b4 := BitVec.ofNat 8 s.dr.need[x.domain].toNat } id

/-- RESTART is checked in the order of R128, the first failing check giving the status and changing nothing; one that
passes sets the restart-outstanding mark to the requester, posts to the module's engine, and answers the recorded state
and the generation; no claim changes (R128, R129, R130). -/
def Obligations.RestartIsCheckedThenPosted : Prop :=
  ∀ (s : State) (p : Port) (r : Request), Serving s p r codeRestart →
    ∃ t, exec .restart s = .next t ∧ SameBlocks s t ∧
      let refused (st : Status) : Prop := t.ct = s.ct ∧ t.links = s.links ∧ Answered s t p r { status := st } id
      (32 ≤ (r.byte 2).toNat → refused .badArgument) ∧
      ∀ m : Module, (r.byte 2).toNat = m.val →
        let q := s.modAt m
        let d := s.ct.dir[m]
        if d.present = false then refused .noModule
        else if s.ct.views[m].fault = true ∨ s.domState d.domain = .fault then refused .faulted
        else if s.ct.restartMark[m] ≠ none then refused .busy
        else if q.state ≠ .paused ∧ q.state ≠ .running then refused .notRunning
        else if ∃ k : Module, s.ct.dir[k].present = true ∧ s.ct.dir[k].supplier = some m ∧
            ((s.modAt k).state = .held ∨ (s.modAt k).state = .paused ∨ (s.modAt k).state = .running ∨
              (s.modAt k).stepping = true) then refused .dependents
        else if p ≠ d.owner ∧ p ≠ 0 ∧ ∃ sl ∈ s.ct.lists[m], ∃ c ∈ s.ct.claimAt sl, c.holder ≠ p then
          refused .contested
        else
          t.ct.restartMark[m] = some p ∧ (∀ k : Module, k ≠ m → t.ct.restartMark[k] = s.ct.restartMark[k]) ∧
          t.ct = { s.ct with restartMark := t.ct.restartMark } ∧
          t.links = { s.links with ctToEngine := modifyAt s.links.ctToEngine d.domain (· ++ [.restart m p]) } ∧
          Answered s t p r
            { status := .ok, b2 := r.byte 2, b3 := if q.state = .paused then 2 else 3, b4 := q.gen } id

/-- CLEAR MODULE FAULT and CLEAR DOMAIN FAULT are checked in the orders of R147 and R149, the first failing check giving the
status and changing nothing; one that passes hands a clear to the engine, answers the prior cause, and for a module the
outcome of the release rule on the states read now (R144, R147, R149). That outcome's supplier chain and domain, and the
modules that CLEAR DOMAIN FAULT counts, are read from the claim table's copy of the directory, which the rules do not name
(the model's reading, log 10). -/
def Obligations.ClearsAreCheckedThenHandedOver : Prop :=
  (∀ (s : State) (p : Port) (r : Request), Serving s p r codeClearModuleFault →
    ∃ t, exec .clearModuleFault s = .next t ∧ t.ct = s.ct ∧ SameBlocks s t ∧
      let refused (st : Status) : Prop := t.links = s.links ∧ Answered s t p r { status := st } id
      (32 ≤ (r.byte 2).toNat → refused .badArgument) ∧
      ∀ m : Module, (r.byte 2).toNat = m.val →
        let q := s.modAt m
        let d := s.ct.dir[m]
        let after : Option ModCause :=
          if s.domState d.domain = .fault then some .domain
          else if (supplierChain s.ct.dir 32 m).any (fun u => decide ((s.modAt u).state = .fault)) then some .supplier
          else none
        if d.present = false then refused .noModule
        else if p ≠ d.owner ∧ p ≠ 0 then refused .notPermitted
        else if q.state ≠ .fault ∨ (q.cause ≠ some .ackTimeout ∧ q.cause ≠ some .readyLost) then refused .notFaulted
        else
          t.links = { s.links with ctToEngine := modifyAt s.links.ctToEngine d.domain (· ++ [.moduleClear m]) } ∧
          Answered s t p r
            { status := .ok, b2 := r.byte 2
              b3 := if q.cause = some .ackTimeout then 1 else 2
              b4 := if after = none then 0 else 4
              b5 := if after = none then 0 else if after = some .supplier then 3 else 4
              b6 := q.gen } id) ∧
  ∀ (s : State) (r : Request), Serving s 0 r codeClearDomainFault →
    ∃ t, exec .clearDomainFault s = .next t ∧ t.ct = s.ct ∧ SameBlocks s t ∧
      let refused (st : Status) : Prop := t.links = s.links ∧ Answered s t 0 r { status := st } id
      (4 ≤ (r.byte 2).toNat → refused .badArgument) ∧ ((r.byte 2).toNat = 0 → refused .notFaulted) ∧
      ∀ x : SwDom, (r.byte 2).toNat = x.val + 1 →
        if s.engines.doms[x].state ≠ .fault then refused .notFaulted
        else if s.pins.dpg[x] = true then refused .powerPresent
        else
          t.links = { s.links with ctToEngine := modifyAt s.links.ctToEngine x.domain (· ++ [.domainClear x]) } ∧
          Answered s t 0 r
            { status := .ok, b2 := r.byte 2
              b3 := BitVec.ofNat 8 (domCauseCode s.engines.doms[x].cause).toNat
              b4 := byteOf (allModules.filter fun m =>
                s.ct.dir[m].present && decide (s.ct.dir[m].domain = x.domain) &&
                  decide ((s.modAt m).state = .fault ∧ (s.modAt m).cause = some .domain)).length } id

/-! ### Notices and ticks at the claim table -/

/-- A level notice updates the module view and settles every claim of the module's list against the level: PENDING within
it becomes GRANTED with the notice's generation, GRANTED above it becomes PENDING, each marked in its holder's change set;
every other claim, and lists, counts, cursors and claimed levels stay (R10, R11). -/
def Obligations.LevelNoticeSettlesTheList : Prop :=
  ∀ (s : State) (e : Domain) (m : Module) (x : Level) (g : Byte) (rest : List CtNotice),
    Running s → s.links.toCt[e] = .level m x g :: rest → ListsRight s →
    let turns (c : Claim) : Prop := (c.state = .pending ∧ c.level ≤ x) ∨ (c.state = .granted ∧ x < c.level)
    ∃ t, exec (.levelNotice e) s = .next t ∧ SameBlocks s t ∧ SamePorts s t ∧
      t.links = { s.links with toCt := s.links.toCt.set e rest } ∧
      t.ct.views[m] = { level := x, gen := g, fault := false } ∧
      (∀ k : Module, k ≠ m → t.ct.views[k] = s.ct.views[k]) ∧
      (∀ sl : Slot, t.ct.slots[sl].gen = s.ct.slots[sl].gen ∧
        t.ct.claimAt sl = (s.ct.claimAt sl).map fun c =>
          if sl ∈ s.ct.lists[m] ∧ c.state = .pending ∧ c.level ≤ x then
            { c with state := .granted, genSeen := some g }
          else if sl ∈ s.ct.lists[m] ∧ c.state = .granted ∧ x < c.level then { c with state := .pending }
          else c) ∧
      (∀ (q : Port) (sl : Slot), sl ∈ t.ct.ports[q].changes ↔
        sl ∈ s.ct.ports[q].changes ∨
          (sl ∈ s.ct.lists[m] ∧ ∃ c ∈ s.ct.claimAt sl, c.holder = q ∧ turns c)) ∧
      SameCounts s.ct t.ct ∧ SameLists s.ct t.ct ∧ t.ct.claimed = s.ct.claimed ∧
      t.ct.restartMark = s.ct.restartMark ∧ t.ct.dir = s.ct.dir ∧ t.ct.divider = s.ct.divider

/-- A restart start notice turns every GRANTED claim of the module's list PENDING, marked, its generation seen kept, and
leaves the view and the claimed level; a restart end notice clears the module's restart-outstanding mark and changes
nothing else (R12, R13). -/
def Obligations.RestartNoticesUngrantAndClear : Prop :=
  (∀ (s : State) (e : Domain) (m : Module) (rest : List CtNotice),
    Running s → s.links.toCt[e] = .restartStart m :: rest → ListsRight s →
    ∃ t, exec (.restartStartNotice e) s = .next t ∧ SameBlocks s t ∧ SamePorts s t ∧ SameRecords s.ct t.ct ∧
      t.links = { s.links with toCt := s.links.toCt.set e rest } ∧
      (∀ sl : Slot, t.ct.slots[sl].gen = s.ct.slots[sl].gen ∧
        t.ct.claimAt sl = (s.ct.claimAt sl).map fun c =>
          if sl ∈ s.ct.lists[m] ∧ c.state = .granted then { c with state := .pending } else c) ∧
      (∀ (q : Port) (sl : Slot), sl ∈ t.ct.ports[q].changes ↔
        sl ∈ s.ct.ports[q].changes ∨
          (sl ∈ s.ct.lists[m] ∧ ∃ c ∈ s.ct.claimAt sl, c.holder = q ∧ c.state = .granted)) ∧
      SameCounts s.ct t.ct ∧ SameLists s.ct t.ct ∧ t.ct.claimed = s.ct.claimed) ∧
  ∀ (s : State) (e : Domain) (m : Module) (rest : List CtNotice),
    Running s → s.links.toCt[e] = .restartEnd m :: rest →
    exec (.restartEndNotice e) s = .next { s with
      ct := { s.ct with restartMark := s.ct.restartMark.set m none }
      links := { s.links with toCt := s.links.toCt.set e rest } }

/-- A fault notice sets the view to level 0 with its fault mark, generation kept, and breaks every claim of the module's
list with the break reason of its cause: lease remaining absent, marked, out of the list; the list ends empty, cursors on
it stand before first, and a claimed-level notice of 0 goes out where the level was above 0 (R10, R14, R15, R24). -/
def Obligations.FaultNoticeBreaksEveryClaim : Prop :=
  ∀ (s : State) (e : Domain) (m : Module) (cause : ModCause) (rest : List CtNotice),
    Running s → s.links.toCt[e] = .fault m cause :: rest → ListsRight s → CursorsRight s → ClaimedRight s →
    let reason : BreakReason :=
      match cause with
      | .ackTimeout => .moduleFault
      | .readyLost => .moduleFault
      | .supplier => .supplierFault
      | .domain => .domainFault
    ∃ t, exec (.faultNoticeAtCt e) s = .next t ∧ SameBlocks s t ∧ SamePorts s t ∧
      t.links = { s.links with
        toCt := s.links.toCt.set e rest
        claimedLevels := s.links.claimedLevels ++ if s.ct.claimed[m] = 0 then [] else [(m, 0)] } ∧
      t.ct.views[m] = { level := 0, gen := s.ct.views[m].gen, fault := true } ∧
      (∀ k : Module, k ≠ m → t.ct.views[k] = s.ct.views[k] ∧ t.ct.lists[k] = s.ct.lists[k] ∧
        t.ct.claimed[k] = s.ct.claimed[k]) ∧
      t.ct.lists[m] = [] ∧ t.ct.claimed[m] = 0 ∧
      (∀ sl : Slot, t.ct.slots[sl].gen = s.ct.slots[sl].gen ∧
        t.ct.claimAt sl = (s.ct.claimAt sl).map fun c =>
          if sl ∈ s.ct.lists[m] then { c with state := .broken reason, leaseLeft := none } else c) ∧
      (∀ (q : Port) (sl : Slot), sl ∈ t.ct.ports[q].changes ↔
        sl ∈ s.ct.ports[q].changes ∨
          (sl ∈ s.ct.lists[m] ∧ ∃ c ∈ s.ct.claimAt sl, c.holder = q)) ∧
      (∀ q : Port, t.ct.ports[q].cursor =
        if s.ct.ports[q].cursor.any (fun c => decide (c.module = m)) then some { module := m, after := none }
        else s.ct.ports[q].cursor) ∧
      SameCounts s.ct t.ct ∧ t.ct.restartMark = s.ct.restartMark ∧ t.ct.dir = s.ct.dir ∧ t.ct.divider = s.ct.divider

/-- The tick at the claim table, as LEASE_COUNTDOWN takes it, and LAPSE where the claim in the named slot runs out at it:
every live leased claim's remaining falls by one, and one that stood at 1 lapses: lease remaining absent, out of its list,
marked; every other claim stays, and claimed levels are worked out once at the end; a cursor that stood after a lapsed claim
ends after the nearest claim before it that remains, or before first (R50, R51). -/
def Obligations.TheTickCountsEveryLease : Prop :=
  ∀ (s : State) (i : Instr), Running s → s.ticks.ct = true → ListsRight s → ClaimsRight s →
    CursorsRight s →
    (i = .leaseCountdown ∨ ∃ sl : Slot, ∃ c ∈ s.ct.claimAt sl, i = .lapse sl ∧
      c.state.live = true ∧ c.leaseLeft = some 1) →
    let lapses (sl : Slot) : Bool := (s.ct.claimAt sl).any fun c => c.state.live && decide (c.leaseLeft = some 1)
    ∃ t, exec i s = .next t ∧ SamePorts s t ∧ SameRecords s.ct t.ct ∧ Relevelled s t ∧
      t.dr = s.dr ∧ t.engines = s.engines ∧ t.timebase = s.timebase ∧ t.pins = s.pins ∧ t.inReset = false ∧
      t.pending = s.pending ∧ t.ticks = { s.ticks with ct := false } ∧
      (∀ sl : Slot, t.ct.slots[sl].gen = s.ct.slots[sl].gen ∧
        t.ct.claimAt sl = (s.ct.claimAt sl).map fun c =>
          if lapses sl then { c with state := .lapsed, leaseLeft := none }
          else { c with leaseLeft := c.leaseLeft.map (· - 1) }) ∧
      (∀ m : Module, t.ct.lists[m] = s.ct.lists[m].filter fun sl => !lapses sl) ∧
      (∀ (q : Port) (sl : Slot), sl ∈ t.ct.ports[q].changes ↔
        sl ∈ s.ct.ports[q].changes ∨
          (lapses sl = true ∧ ∃ c ∈ s.ct.claimAt sl, c.holder = q)) ∧
      (∀ q : Port, t.ct.ports[q].cursor = s.ct.ports[q].cursor.map (cursorPast s.ct lapses)) ∧
      SameCounts s.ct t.ct

/-! ### The demand resolver -/

/-- A claimed-level notice sets the module's copy, and a SET KEEP-ON hand-over the domain's keep-on; everything that follows
is worked out once and posted, targets in ascending module index and then the need to each engine. A watch that begins at
the event's end reads MWAKE, one that goes on keeps wake request and idle count, one that ends clears them (R59, R61, R65,
R66, R68, R69, R116). -/
def Obligations.LevelsAndKeepOnReworkDemand : Prop :=
  (∀ (s : State) (m : Module) (l : Level) (before rest : List (Module × Level)),
    Running s → SupplierOrder s → DemandRight s →
    s.links.claimedLevels = before ++ (m, l) :: rest → (∀ h ∈ before, h.1 ≠ m) →
    ∃ t, exec (.claimedLevelNotice m) s = .next t ∧ OnlyResolver s t ∧ t.ticks = s.ticks ∧ t.pins = s.pins ∧
      t.links = { s.links with claimedLevels := before ++ rest, drToEngine := t.links.drToEngine } ∧
      t.dr.claimed[m] = l ∧ (∀ k : Module, k ≠ m → t.dr.claimed[k] = s.dr.claimed[k]) ∧
      t.dr.dir = s.dr.dir ∧ t.dr.views = s.dr.views ∧ t.dr.keepOn = s.dr.keepOn ∧ WatchFollows s t ∧
      DemandRight t ∧ DemandPosted s t s.dr.posted fun _ => []) ∧
  ∀ (s : State) (x : SwDom) (on : Bool) (before rest : List (SwDom × Bool)),
    Running s → SupplierOrder s → DemandRight s →
    s.links.keepOnToDr = before ++ (x, on) :: rest → (∀ h ∈ before, h.1 ≠ x) →
    ∃ t, exec (.setKeepOnHandover x) s = .next t ∧ OnlyResolver s t ∧ t.ticks = s.ticks ∧ t.pins = s.pins ∧
      t.links = { s.links with keepOnToDr := before ++ rest, drToEngine := t.links.drToEngine } ∧
      t.dr.keepOn[x] = on ∧ (∀ y : SwDom, y ≠ x → t.dr.keepOn[y] = s.dr.keepOn[y]) ∧
      t.dr = { s.dr with keepOn := t.dr.keepOn, need := t.dr.need, postedNeed := t.dr.postedNeed } ∧
      DemandRight t ∧ DemandPosted s t s.dr.posted fun _ => []

/-- A state notice sets the module's view; where it takes the module out of FAULT a supplier-clear notice goes to each
present dependent's engine. A fault notice sets the view to FAULT, the effective level to 0 and the posted target to
OFF without posting it, and sends each present dependent's engine a supplier-fault notice; both kinds go out in
ascending index (for supplier-clear notices the model's choice, log 23); for a module already shown in FAULT it
changes nothing. Watches that begin, go on or end treat wake request and idle count as R116 says (R60, R63, R64, R116,
R140, R146). -/
def Obligations.EngineNoticesReworkDemand : Prop :=
  (∀ (s : State) (e : Domain) (m : Module) (v : DrView) (rest : List DrNotice),
    Running s → SupplierOrder s → DemandRight s → s.links.toDr[e] = .state m v :: rest →
    ∃ t, exec (.stateNotice e) s = .next t ∧ OnlyResolver s t ∧ t.ticks = s.ticks ∧ t.pins = s.pins ∧
      t.links = { s.links with toDr := s.links.toDr.set e rest, drToEngine := t.links.drToEngine } ∧
      t.dr.views[m] = v ∧ (∀ k : Module, k ≠ m → t.dr.views[k] = s.dr.views[k]) ∧
      t.dr.dir = s.dr.dir ∧ t.dr.claimed = s.dr.claimed ∧ t.dr.keepOn = s.dr.keepOn ∧ WatchFollows s t ∧
      DemandRight t ∧
      DemandPosted s t s.dr.posted fun d =>
        if s.dr.views[m].state = .fault ∧ v.state ≠ .fault then noticesFor s.dr m .supplierClear d else []) ∧
  (∀ (s : State) (e : Domain) (m : Module) (c : ModCause) (rest : List DrNotice),
    Running s → SupplierOrder s → DemandRight s → s.links.toDr[e] = .fault m c :: rest →
    s.dr.views[m].state ≠ .fault →
    ∃ t, exec (.faultNoticeAtDr e) s = .next t ∧ OnlyResolver s t ∧ t.ticks = s.ticks ∧ t.pins = s.pins ∧
      t.links = { s.links with toDr := s.links.toDr.set e rest, drToEngine := t.links.drToEngine } ∧
      t.dr.views[m] = { state := .fault, armed := false, woken := false } ∧
      (∀ k : Module, k ≠ m → t.dr.views[k] = s.dr.views[k]) ∧
      t.dr.eff[m] = 0 ∧ t.dr.posted[m] = .off ∧ t.dr.watched[m] = false ∧ t.dr.wakeReq[m] = false ∧
      t.dr.idle[m] = none ∧ t.dr.wakeNeed[m] = false ∧
      t.dr.dir = s.dr.dir ∧ t.dr.claimed = s.dr.claimed ∧ t.dr.keepOn = s.dr.keepOn ∧ WatchFollows s t ∧
      DemandRight t ∧
      DemandPosted s t s.dr.posted (noticesFor s.dr m .supplierFault)) ∧
  ∀ (s : State) (e : Domain) (m : Module) (c : ModCause) (rest : List DrNotice),
    Running s → s.links.toDr[e] = .fault m c :: rest → s.dr.views[m].state = .fault →
    exec (.faultNoticeAtDr e) s = .next { s with links := { s.links with toDr := s.links.toDr.set e rest } }

/-- A SET MODULE hand-over at the demand resolver writes the record; a module that leaves a domain with a posted
target other than OFF is posted OFF there, before the event's other targets there (the model's choice, log 21); a
module made absent has posted target OFF and effective level 0; a present module under a present supplier whose chain
shows FAULT is sent a supplier-fault notice; and all demand is brought into agreement with the record, wake requests
and idle counts following their watches (R57, R116, R140). -/
def Obligations.TheDirectoryHandOverReworksDemand : Prop :=
  ∀ (s : State) (m : Module) (r : DirRecord) (before rest : List (Module × DirRecord)),
    Running s → SupplierOrder s → DemandRight s →
    s.links.modulesToDr = before ++ (m, r) :: rest → (∀ h ∈ before, h.1 ≠ m) →
    let old := s.dr.dir[m].domain
    let leaves := r.present = true ∧ old ≠ r.domain ∧ s.dr.posted[m] ≠ .off
    let posted := if r.present = false ∨ leaves then s.dr.posted.set m .off else s.dr.posted
    ∃ t, exec (.setModuleHandoverDr m) s = .next t ∧ OnlyResolver s t ∧ t.ticks = s.ticks ∧ t.pins = s.pins ∧
      t.links = { s.links with modulesToDr := before ++ rest, drToEngine := t.links.drToEngine } ∧
      t.dr.dir[m] = r ∧ (∀ k : Module, k ≠ m → t.dr.dir[k] = s.dr.dir[k]) ∧
      t.dr.views = s.dr.views ∧ t.dr.claimed = s.dr.claimed ∧ t.dr.keepOn = s.dr.keepOn ∧ WatchFollows s t ∧
      DemandRight t ∧
      (r.present = false → t.dr.eff[m] = 0 ∧ t.dr.posted[m] = .off ∧ t.dr.watched[m] = false) ∧
      let faulted := r.present = true ∧ r.supplier.any (fun u => t.dr.dir[u].present) = true ∧
        ∃ u ∈ supplierChain t.dr.dir 32 m, t.dr.views[u].state = .fault
      ∀ e : Domain, t.links.drToEngine[e] =
        s.links.drToEngine[e] ++ (if leaves ∧ e = old then [.target m .off] else []) ++
          owedTargets t.dr posted e ++ owedNeed t.dr s.dr.postedNeed e ++
          (if faulted ∧ e = r.domain then [.supplierFault m] else [])

/-- A rise of MWAKE on a watched module sets its wake request and discards its idle count; on a present, wake-used module
that the view shows OFF, HELD or PAUSED without ARMED it is a stray wake, posted to the owner port and changing nothing
else; any other rise is ignored. A fall on a watched module with its mark set clears the mark and loads the idle count with
the idle window; any other fall is ignored (R117, R118, R119, R120). -/
def Obligations.WakeEdgesAreTakenByTheWatch : Prop :=
  (∀ (s : State) (m : Module), Running s → Settled s (.mwake m) → s.pins.mwake[m] = false →
    ∃ t, exec (.mwakeRise m) s = .next t ∧ OnlyResolver s t ∧ t.ticks = s.ticks ∧
      t.pins = { s.pins with mwake := s.pins.mwake.set m true } ∧
      (s.dr.watched[m] = true → SupplierOrder s → DemandRight s →
        t.dr.wakeReq = s.dr.wakeReq.set m true ∧ t.dr.idle = s.dr.idle.set m none ∧ t.dr.eff = s.dr.eff ∧
        t.dr.watched = s.dr.watched ∧ DemandRight t ∧ (DemandPosted s t s.dr.posted fun _ => []) ∧
        t.links = { s.links with drToEngine := t.links.drToEngine } ∧
        (t.dr.eff[m] = 2 → t.dr.wakeNeed[m] = true)) ∧
      (s.dr.watched[m] = false →
        let v := s.dr.views[m]
        let stray := s.dr.dir[m].present = true ∧ s.dr.dir[m].wakeUsed = true ∧
          (v.state = .off ∨ v.state = .held ∨ (v.state = .paused ∧ v.armed = false))
        t.dr = s.dr ∧
        (stray → t.links = { s.links with
          alerts := s.links.alerts ++
            [{ port := s.dr.dir[m].owner, subject := .module m, reason := .strayWake }] }) ∧
        (¬stray → t.links = s.links))) ∧
  ∀ (s : State) (m : Module), Running s → Settled s (.mwake m) → s.pins.mwake[m] = true →
    ∃ t, exec (.mwakeFall m) s = .next t ∧ OnlyResolver s t ∧ t.ticks = s.ticks ∧
      t.pins = { s.pins with mwake := s.pins.mwake.set m false } ∧
      (s.dr.watched[m] = true → s.dr.wakeReq[m] = true → SupplierOrder s → DemandRight s →
        t.dr = { s.dr with
          wakeReq := s.dr.wakeReq.set m false, idle := s.dr.idle.set m (some (s.modAt m).idleWindow) } ∧
        t.links = s.links) ∧
      (s.dr.watched[m] = false ∨ s.dr.wakeReq[m] = false → t.dr = s.dr ∧ t.links = s.links)

/-- The tick at the demand resolver, as IDLE_COUNT_TICK takes it, and IDLE_COUNT_RUNS_OUT where the named module's count
stands at 1: every running idle count falls by one, one that stood at 1 stops, and wake needs and targets follow (R120,
R123, R124). -/
def Obligations.TheTickCountsEveryIdleWindow : Prop :=
  ∀ (s : State) (i : Instr), Running s → s.ticks.dr = true → SupplierOrder s → DemandRight s →
    (i = .idleCountTick ∨ ∃ m : Module, i = .idleCountRunsOut m ∧ s.dr.idle[m] = some 1) →
    ∃ t, exec i s = .next t ∧ OnlyResolver s t ∧ t.ticks = { s.ticks with dr := false } ∧ t.pins = s.pins ∧
      (∀ m : Module,
        (s.dr.idle[m] = none → t.dr.idle[m] = none) ∧ (s.dr.idle[m] = some 1 → t.dr.idle[m] = none) ∧
        ∀ n ∈ s.dr.idle[m], 2 ≤ n → t.dr.idle[m] = some (n - 1)) ∧
      t.dr = { s.dr with idle := t.dr.idle, wakeNeed := t.dr.wakeNeed, posted := t.dr.posted } ∧
      t.links = { s.links with drToEngine := t.links.drToEngine } ∧ DemandRight t ∧
      DemandPosted s t s.dr.posted fun _ => []

/-! ### The domain engines -/

/-- A target posting at its engine sets the wanted target of a present module of the engine not in FAULT, and is
discarded for any other; with a transition in flight it does no more; a module with an entry has the entry's target
replaced in its place, and loses the entry where that equals the recorded state and no restart is flagged; a module
without one joins the tail where the target differs. A restart posting flags the module's entry in its place, is kept
pending while a transition is in flight, or joins the tail as an entry toward the wanted target; on a module in FAULT
the restart fails, with the end notice and RESTART_FAILED to the requester. The engine then considers its queue (R74,
R79 to R82, R131). The engine at which the event is considers its queue in the event itself, before any other (the
model's choice, log 22). -/
def Obligations.PostingsAreQueued : Prop :=
  (∀ (s : State) (e : Domain) (m : Module) (tg : Target) (rest : List DrPosting),
    Running s → s.links.drToEngine[e] = .target m tg :: rest →
    ∃ u, exec (.targetPostingAtEngine e) s = .next (u.settleEngine e) ∧ OnlyEngines s u ∧ u.timebase = s.timebase ∧
      u.links = { s.links with drToEngine := s.links.drToEngine.set e rest } ∧ SameEngines s u e m ∧
      u.engines.recs[e] = { s.engines.recs[e] with queue := u.engines.recs[e].queue } ∧
      let owned := (s.engineDir m).present = true ∧ (s.engineDir m).domain = e ∧ (s.modAt m).state ≠ .fault
      let q := s.engines.recs[e].queue
      (¬owned → u.engines = s.engines) ∧
      (owned →
        u.modAt m = { s.modAt m with wanted := tg } ∧
        u.engines.recs[e].queue =
          if (s.modAt m).stepping = true then q
          else if q.any (fun en => decide (en.module = m)) then
            (q.map fun en => if en.module = m then { en with target := tg } else en).filter fun en =>
              decide (en.module ≠ m) || en.restart.isSome || decide ((s.modAt m).view ≠ tg.view)
          else if (s.modAt m).view = tg.view then q
          else q ++ [{ module := m, target := tg, restart := none }])) ∧
  ∀ (s : State) (e : Domain) (m : Module) (p : Port) (rest : List CtPosting),
    Running s → s.links.ctToEngine[e] = .restart m p :: rest →
    (s.engineDir m).present = true → (s.engineDir m).domain = e →
    ∃ u, exec (.restartPosting e) s = .next (u.settleEngine e) ∧ OnlyEngines s u ∧ u.timebase = s.timebase ∧
      SameEngines s u e m ∧ u.engines.recs[e] = { s.engines.recs[e] with queue := u.engines.recs[e].queue } ∧
      let q := s.engines.recs[e].queue
      let taken : Links := { s.links with ctToEngine := s.links.ctToEngine.set e rest }
      if (s.modAt m).state = .fault then
        u.engines = s.engines ∧
        u.links = { taken with
          toCt := modifyAt s.links.toCt e (· ++ [.restartEnd m])
          alerts := s.links.alerts ++ [{ port := p, subject := .module m, reason := .restartFailed }] }
      else
        u.links = taken ∧
        if (s.modAt m).stepping = true then
          u.modAt m = { s.modAt m with pendingRestart := some p } ∧ u.engines.recs[e].queue = q
        else
          u.modAt m = s.modAt m ∧
          u.engines.recs[e].queue =
            if q.any (fun en => decide (en.module = m)) then
              q.map fun en => if en.module = m then { en with restart := some p } else en
            else q ++ [{ module := m, target := (s.modAt m).wanted, restart := some p }]

/-- An entry is eligible just where R87 says so: an up-entry by its domain and its supplier, a down-entry by its
present dependents at their physical levels (Table 5-3), a flag-only or restart-flagged entry always. An engine with
work in flight takes no entry; an idle one with no ramp due takes the oldest eligible entry. A bring-up from OFF,
eligible in ON or LINGER (or in D0) with its supplier high enough and not stepping, drives MCLKEN high, loads the ack
timeout and makes a lingering domain ON; where MRDY is high already, CLOCK_ON completes to HELD and HOLD begins. A
take-down from RUNNING to OFF, eligible once every present dependent is OFF, HELD or FAULT and not stepping, and a
restart from RUNNING that passes its check, assert reset, report level 0 and HELD, and hold for the reset hold time. A
restart from PAUSED that passes asserts reset, reports level 0 and OFF, and drives MCLKEN high. The other rows of
Table 5-4 have one step: PAUSED to RUNNING opens the gate, RUNNING to PAUSED closes it, PAUSED to OFF asserts reset;
where MRDY lets the step complete at its begin, and for a flag-only change, the transition ends in the event, with its
notices and the comparison with the wanted target. A restart that fails its check ends with its end notice and
RESTART_FAILED. An OFF domain with need and an up-entry waiting begins its ramp first. TAKE_ENTRY goes on from the
first move with the rest of what the model bounds the moves of one event by, four for each entry and eight (log 9)
(R81 to R87, R89 to R93, R101, R105, R132, R133, R134). -/
def Obligations.TheEngineTakesTheOldestEligibleEntry : Prop :=
  (∀ (s : State) (e : Domain) (en : Entry),
    let r := s.modAt en.module
    let t := en.target
    s.eligible e en = true ↔
      en.restart ≠ none ∨ GoesUp r t ∧ MayGoUp s e en.module t ∨ GoesDown r t ∧ MayGoDown s en.module t ∨
        ChangesFlags r t) ∧
  (∀ r : ModRec, r.level =
    match r.state with
    | .off => 0
    | .held => 0
    | .paused => if r.armed = true then 2 else 1
    | .running => if r.woken = true then 2 else 3
    | .fault => 0) ∧
  (Target.off.level = 0 ∧ Target.paused.level = 1 ∧ Target.pausedArmed.level = 2 ∧ Target.runningWoken.level = 2 ∧
    Target.running.level = 3) ∧
  (∀ (s : State) (e : Domain), Running s → s.engines.recs[e].work ≠ .idle →
    exec (.takeEntry e) s = .next s) ∧
  (∀ (s : State) (e : Domain) (en : Entry) (before rest : List Entry),
    s.engines.recs[e].work = .idle → (∀ x : SwDom, x.domain = e → s.engines.doms[x].state ≠ .off) →
    s.engines.recs[e].queue = before ++ en :: rest → (∀ b ∈ before, s.eligible e b = false) → s.eligible e en = true →
    s.engineMove e = some (s.takeEntry e en)) ∧
  (∀ (s : State) (e : Domain), Running s →
    (s.engineMove e = none → exec (.takeEntry e) s = .next s) ∧
    ∀ u, s.engineMove e = some u →
      exec (.takeEntry e) s = .next (State.engineMoves e (4 * s.engines.recs[e].queue.length + 7) u)) ∧
  (∀ (s : State) (e : Domain) (m : Module) (tg : Target) (before rest : List Entry),
    Running s → s.engines.recs[e].work = .idle → (s.domState e = .on ∨ s.domState e = .linger) →
    s.engines.recs[e].queue = before ++ { module := m, target := tg, restart := none } :: rest →
    (∀ en ∈ before, s.eligible e en = false) → (s.modAt m).state = .off → (tg.state = .paused ∨ tg.state = .running) →
    (∀ u ∈ (s.engineDir m).supplier, (s.modAt u).stepping = false ∧
      ((s.modAt u).state = .running ∨ (tg.state = .paused ∧ (s.modAt u).state = .paused))) →
    let path : List LineStep := if tg.state = .paused then [.hold, .clockOff, .resetRelease] else [.hold, .resetRelease]
    let old := s.modAt m
    let up : ModRec := { old with stepping := true, clockOpen := true }
    let held : ModRec := { up with state := .held, armed := false, woken := false }
    let ready := s.pins.mrdy[m]
    ∃ t, exec (.takeEntry e) s = .next t ∧ OnlyEngines s t ∧ t.timebase = s.timebase ∧
      t.links = { s.links with
        toCt := if ready then modifyAt s.links.toCt e (· ++ levelNoticeFor m old held) else s.links.toCt
        toDr := if ready then modifyAt s.links.toDr e (· ++ stateNoticeFor m old held) else s.links.toDr } ∧
      t.engines.recs[e] =
        { queue := s.engines.recs[e].queue.filter (·.module ≠ m)
          work := .transition
            { module := m, target := tg, restart := none, steps := if ready then path else .clockOn :: path }
          timer := some (if ready then old.resetHold else old.ackTimeout) } ∧
      t.modAt m = (if ready then held else up) ∧
      (∀ k : Module, k ≠ m → t.modAt k = s.modAt k) ∧ (∀ d : Domain, d ≠ e → t.engines.recs[d] = s.engines.recs[d]) ∧
      t.engines.dir = s.engines.dir ∧
      ∀ x : SwDom, t.engines.doms[x] =
        if x.domain = e ∧ s.engines.doms[x].state = .linger then
          { s.engines.doms[x] with state := .on, lingerCount := none }
        else s.engines.doms[x]) ∧
  (∀ (s : State) (e : Domain) (m : Module) (tg : Target) (restart : Option Port) (before rest : List Entry),
    Running s → s.engines.recs[e].work = .idle → s.domState e = .on →
    s.engines.recs[e].queue = before ++ { module := m, target := tg, restart := restart } :: rest →
    (∀ en ∈ before, s.eligible e en = false) → (s.modAt m).state = .running →
    (restart = none ↔ tg = .off) →
    (∀ k : Module, (s.engineDir k).present = true → (s.engineDir k).supplier = some m →
      (s.modAt k).stepping = false ∧
        ((s.modAt k).state = .off ∨ (s.modAt k).state = .fault ∨ (restart = none ∧ (s.modAt k).state = .held))) →
    ∃ t, exec (.takeEntry e) s = .next t ∧ OnlyEngines s t ∧ t.timebase = s.timebase ∧
      SameEngines s t e m ∧
      t.engines.recs[e] =
        { queue := s.engines.recs[e].queue.filter (·.module ≠ m)
          work := .transition
            { module := m, target := tg, restart := restart
              steps := if restart = none then [.hold, .clockOff] else [.hold, .resetRelease] }
          timer := some (s.modAt m).resetHold } ∧
      t.modAt m = { s.modAt m with
        state := .held, armed := false, woken := false, stepping := true, resetReleased := false } ∧
      t.links = { s.links with
        toCt := modifyAt s.links.toCt e
          (· ++ (if restart = none then [] else [.restartStart m]) ++ [.level m 0 (s.modAt m).gen])
        toDr := modifyAt s.links.toDr e (· ++ [.state m { state := .held, armed := false, woken := false }]) }) ∧
  (∀ (s : State) (e : Domain) (m : Module) (tg : Target) (p : Port) (before rest : List Entry),
    Running s → s.engines.recs[e].work = .idle → s.domState e = .on →
    s.engines.recs[e].queue = before ++ { module := m, target := tg, restart := some p } :: rest →
    (∀ en ∈ before, s.eligible e en = false) → (s.modAt m).state = .paused → tg ≠ .off →
    (∀ k : Module, (s.engineDir k).present = true → (s.engineDir k).supplier = some m → (s.modAt k).up = false) →
    let old := s.modAt m
    let asserted : ModRec :=
      { old with state := .off, armed := false, woken := false, stepping := true, resetReleased := false }
    let driven : ModRec := { asserted with clockOpen := true }
    let held : ModRec := { driven with state := .held }
    let ready := s.pins.mrdy[m]
    let path : List LineStep := [.hold, .clockOff, .resetRelease]
    ∃ t, exec (.takeEntry e) s = .next t ∧ OnlyEngines s t ∧ t.timebase = s.timebase ∧ SameEngines s t e m ∧
      t.engines.recs[e] =
        { queue := s.engines.recs[e].queue.filter (·.module ≠ m)
          work := .transition
            { module := m, target := tg, restart := some p, steps := if ready then path else .clockOn :: path }
          timer := some (if ready then old.resetHold else old.ackTimeout) } ∧
      t.modAt m = (if ready then held else driven) ∧
      t.links = { s.links with
        toCt := modifyAt s.links.toCt e (· ++ .restartStart m :: levelNoticeFor m old asserted)
        toDr := modifyAt s.links.toDr e
          (· ++ .state m asserted.view :: (if ready then [.state m held.view] else [])) }) ∧
  (∀ (s : State) (e : Domain) (m : Module) (tg : Target) (st : LineStep),
    ((s.modAt m).state = .paused ∧ tg.state = .running ∧ st = .clockOn ∨
      (s.modAt m).state = .running ∧ tg.state = .paused ∧ st = .clockOff ∨
      (s.modAt m).state = .paused ∧ tg = .off ∧ st = .resetAssert) →
    let u := s.takeEntry e { module := m, target := tg, restart := none }
    let kept := s.engines.recs[e].queue.filter (·.module ≠ m)
    let old := s.modAt m
    let begun : ModRec := { old.driveStep st with stepping := true }
    let new : ModRec := { begun with
      state := tg.state, armed := decide (tg = .pausedArmed), woken := decide (tg = .runningWoken) }
    let waits := (st = .clockOn ∧ s.pins.mrdy[m] = false) ∨ (st = .clockOff ∧ s.pins.mrdy[m] = true)
    OnlyEngines s u ∧ u.timebase = s.timebase ∧ u.engines.dir = s.engines.dir ∧
      (∀ k : Module, k ≠ m → u.modAt k = s.modAt k) ∧ (∀ d : Domain, d ≠ e → u.engines.recs[d] = s.engines.recs[d]) ∧
      (∀ x : SwDom, u.engines.doms[x] =
        if st = .clockOn ∧ x.domain = e ∧ s.engines.doms[x].state = .linger then
          { s.engines.doms[x] with state := .on, lingerCount := none }
        else s.engines.doms[x]) ∧
      (waits → u.modAt m = begun ∧ u.links = s.links ∧
        u.engines.recs[e] =
          { queue := kept, work := .transition { module := m, steps := [st], target := tg, restart := none }
            timer := some old.ackTimeout }) ∧
      (¬waits → u.modAt m = { new with stepping := false, pendingRestart := none } ∧
        u.engines.recs[e] = { queue := kept ++ entryAfter m new, work := .idle, timer := none } ∧
        u.links = { s.links with
          toCt := modifyAt s.links.toCt e (· ++ levelNoticeFor m old new)
          toDr := modifyAt s.links.toDr e (· ++ stateNoticeFor m old new) })) ∧
  (∀ (s : State) (e : Domain) (m : Module) (tg : Target),
    ((s.modAt m).state = .paused ∨ (s.modAt m).state = .running) → tg.state = (s.modAt m).state →
    (s.modAt m).view ≠ tg.view →
    let u := s.takeEntry e { module := m, target := tg, restart := none }
    let old := s.modAt m
    let new : ModRec := { old with armed := decide (tg = .pausedArmed), woken := decide (tg = .runningWoken) }
    OnlyEngines s u ∧ u.timebase = s.timebase ∧ SameEngines s u e m ∧
      u.modAt m = { new with pendingRestart := none } ∧
      u.engines.recs[e] = { s.engines.recs[e] with
        queue := s.engines.recs[e].queue.filter (·.module ≠ m) ++ entryAfter m new } ∧
      u.links = { s.links with
        toCt := modifyAt s.links.toCt e (· ++ levelNoticeFor m old new)
        toDr := modifyAt s.links.toDr e (· ++ [.state m tg.view]) }) ∧
  (∀ (s : State) (e : Domain) (m : Module) (tg : Target) (p : Port),
    ((s.modAt m).state ≠ .paused ∧ (s.modAt m).state ≠ .running ∨ tg = .off ∨
      ∃ k : Module, (s.engineDir k).present = true ∧ (s.engineDir k).supplier = some m ∧ (s.modAt k).up = true) →
    let u := s.takeEntry e { module := m, target := tg, restart := some p }
    let kept := s.engines.recs[e].queue.filter (·.module ≠ m)
    OnlyEngines s u ∧ u.timebase = s.timebase ∧ SameEngines s u e m ∧ u.modAt m = s.modAt m ∧
      u.engines.recs[e] = { s.engines.recs[e] with
        queue := if (s.modAt m).view = tg.view then kept
          else kept ++ [{ module := m, target := tg, restart := none }] } ∧
      u.links = { s.links with
        toCt := modifyAt s.links.toCt e (· ++ [.restartEnd m])
        alerts := s.links.alerts ++ [{ port := p, subject := .module m, reason := .restartFailed }] }) ∧
  ∀ (s : State) (x : SwDom) (en : Entry), Running s → s.engines.recs[x.domain].work = .idle →
    s.engines.doms[x].state = .off → s.engines.doms[x].need = true → en ∈ s.engines.recs[x.domain].queue →
    en.restart = none → s.pins.dpg[x] = false →
    ∃ t, exec (.takeEntry x.domain) s = .next t ∧ OnlyEngines s t ∧ t.timebase = s.timebase ∧ t.links = s.links ∧
      t.engines.dir = s.engines.dir ∧ t.engines.mods = s.engines.mods ∧
      t.engines.doms[x] = { s.engines.doms[x] with state := .rampUp, dsw := true, isoReleased := false } ∧
      (∀ y : SwDom, y ≠ x → t.engines.doms[y] = s.engines.doms[y]) ∧
      t.engines.recs[x.domain] =
        { queue := s.engines.recs[x.domain].queue, work := .ramp
          timer := some (10 * s.engines.doms[x].rampTimeout) } ∧
      ∀ d : Domain, d ≠ x.domain → t.engines.recs[d] = s.engines.recs[d]

/-- HOLD, a rise of MRDY on a waiting CLOCK_ON and a fall on a waiting CLOCK_OFF complete the step in flight: the
state of Table 5-6, the flags of R85, and the notices of the change. Where the next step waits it begins; where the
completed step was the last, or a RESET_RELEASE alone follows and completes too with the generation risen by one, or a
CLOCK_OFF follows with MRDY low already and completes at its begin, alone or with a RESET_RELEASE after it, the
transition ends, a restart reports RESTART_DONE, and the comparison with the wanted target is made (R77, R81, R82,
R85, R90 to R93, R133, R135). HOLD first lets the time left on its step timer pass, at the timebase and at every step
timer (the model's choice, log 6). The engine at which the event is considers its queue in the event itself, before
any other (the model's choice, log 22). -/
def Obligations.StepsCompleteInTheirEvent : Prop :=
  ∀ (s : State) (i : Instr) (e : Domain) (tr : Transition) (st : LineStep) (rest : List LineStep),
    CompletesStep s i e tr st rest →
    let b := afterInput s i
    let m := tr.module
    let old := b.modAt m
    let flagged (q : ModRec) : ModRec :=
      { q with armed := decide (tr.target = .pausedArmed ∧ q.state = .paused)
               woken := decide (tr.target = .runningWoken ∧ q.state = .running) }
    let mid : ModRec := { old with state := stateAfter st old.state, armed := false, woken := false }
    (∀ nx ∈ rest.head?, completesAtBegin b.pins.mrdy[m] nx = false →
      ∃ t, exec i s = .next t ∧ OnlyEngines b t ∧ t.timebase = b.timebase ∧ SameEngines b t e m ∧
        t.modAt m = mid.driveStep nx ∧
        t.engines.recs[e] =
          { queue := b.engines.recs[e].queue, work := .transition { tr with steps := rest }
            timer := if nx = .hold then some old.resetHold else some old.ackTimeout } ∧
        t.links = { b.links with
          toCt := modifyAt b.links.toCt e (· ++ levelNoticeFor m old mid)
          toDr := modifyAt b.links.toDr e (· ++ stateNoticeFor m old mid) }) ∧
    (rest = [] →
      let new := flagged mid
      ∃ u, exec i s = .next (u.settleEngine e) ∧ OnlyEngines b u ∧ u.timebase = b.timebase ∧ SameEngines b u e m ∧
        u.modAt m = { new with stepping := false, pendingRestart := none } ∧
        u.engines.recs[e] =
          { queue := b.engines.recs[e].queue ++ entryAfter m new, work := .idle, timer := none } ∧
        u.links = { b.links with
          toCt := modifyAt b.links.toCt e (· ++ levelNoticeFor m old new ++ doneNotices m tr.restart)
          toDr := modifyAt b.links.toDr e (· ++ stateNoticeFor m old new)
          alerts := b.links.alerts ++ doneAlerts m tr.restart }) ∧
    (rest = [.clockOff] → b.pins.mrdy[m] = false →
      let new := flagged { mid with state := stateAfter .clockOff mid.state, clockOpen := false }
      ∃ u, exec i s = .next (u.settleEngine e) ∧ OnlyEngines b u ∧ u.timebase = b.timebase ∧ SameEngines b u e m ∧
        u.modAt m = { new with stepping := false, pendingRestart := none } ∧
        u.engines.recs[e] =
          { queue := b.engines.recs[e].queue ++ entryAfter m new, work := .idle, timer := none } ∧
        u.links = { b.links with
          toCt := modifyAt b.links.toCt e
            (· ++ levelNoticeFor m old mid ++ levelNoticeFor m mid new ++ doneNotices m tr.restart)
          toDr := modifyAt b.links.toDr e (· ++ stateNoticeFor m old mid ++ stateNoticeFor m mid new)
          alerts := b.links.alerts ++ doneAlerts m tr.restart }) ∧
    (rest = [.clockOff, .resetRelease] → b.pins.mrdy[m] = false →
      let stopped : ModRec := { mid with state := stateAfter .clockOff mid.state, clockOpen := false }
      let new := flagged { stopped with
        state := stateAfter .resetRelease stopped.state, gen := old.gen + 1, resetReleased := true }
      ∃ u, exec i s = .next (u.settleEngine e) ∧ OnlyEngines b u ∧ u.timebase = b.timebase ∧ SameEngines b u e m ∧
        u.modAt m = { new with stepping := false, pendingRestart := none } ∧
        u.engines.recs[e] =
          { queue := b.engines.recs[e].queue ++ entryAfter m new, work := .idle, timer := none } ∧
        u.links = { b.links with
          toCt := modifyAt b.links.toCt e
            (· ++ levelNoticeFor m old mid ++ levelNoticeFor m mid stopped ++ levelNoticeFor m stopped new ++
              doneNotices m tr.restart)
          toDr := modifyAt b.links.toDr e
            (· ++ stateNoticeFor m old mid ++ stateNoticeFor m mid stopped ++ stateNoticeFor m stopped new)
          alerts := b.links.alerts ++ doneAlerts m tr.restart }) ∧
    (rest = [.resetRelease] →
      let new := flagged { mid with
        state := stateAfter .resetRelease mid.state, gen := old.gen + 1, resetReleased := true }
      ∃ u, exec i s = .next (u.settleEngine e) ∧ OnlyEngines b u ∧ u.timebase = b.timebase ∧ SameEngines b u e m ∧
        u.modAt m = { new with stepping := false, pendingRestart := none } ∧
        u.engines.recs[e] =
          { queue := b.engines.recs[e].queue ++ entryAfter m new, work := .idle, timer := none } ∧
        u.links = { b.links with
          toCt := modifyAt b.links.toCt e
            (· ++ levelNoticeFor m old mid ++ levelNoticeFor m mid new ++ doneNotices m tr.restart)
          toDr := modifyAt b.links.toDr e (· ++ stateNoticeFor m old mid ++ stateNoticeFor m mid new)
          alerts := b.links.alerts ++ doneAlerts m tr.restart })

/-- A module enters FAULT by an ack timeout of its clock step, by a loss of ready and by a supplier-fault notice:
lines safe, cause recorded, entry and transition gone, fault notices, alerts, and the failure of a restart that stood.
A fall of MRDY with the gate closed or on a module absent or in FAULT, and a rise on a module with no CLOCK_ON
waiting, change only the pin; a supplier-fault notice for a module in FAULT, absent or not owned changes no module
(R94, R95, R136, R138, R139, R141). ACK_TIMEOUT first lets the time left on its step timer pass, at the timebase and
at every step timer (the model's choice, log 6). The engine at which the event is considers its queue in the event
itself, before any other (the model's choice, log 22), and after the fault's notices and alerts (the model's choice,
log 24). -/
def Obligations.ModulesEnterFault : Prop :=
  (∀ (s : State) (e : Domain) (tr : Transition) (st : LineStep) (rest : List LineStep),
    Running s → s.inFlight e = some tr → tr.steps = st :: rest → (st = .clockOn ∨ st = .clockOff) →
    ∃ u, exec (.ackTimeout e) s = .next (u.settleEngine e) ∧
      FaultEntered (s.elapse (s.timerLeft e)) u e tr.module .ackTimeout) ∧
  (∀ (s : State) (m : Module), Running s → Settled s (.mrdy m) → s.pins.mrdy[m] = true →
    let e := s.engineOf m
    let b := afterInput s (.mrdyFall m)
    let stopping := ∃ tr ∈ s.inFlight e, tr.module = m ∧ tr.steps.head? = some .clockOff
    (s.faultable e m = true → ¬stopping → (s.modAt m).clockOpen = true →
      ∃ u, exec (.mrdyFall m) s = .next (u.settleEngine e) ∧ FaultEntered b u e m .readyLost) ∧
    (s.faultable e m = false ∨ (¬stopping ∧ (s.modAt m).clockOpen = false) → exec (.mrdyFall m) s = .next b)) ∧
  (∀ (s : State) (m : Module), Running s → Settled s (.mrdy m) → s.pins.mrdy[m] = false →
    let e := s.engineOf m
    (s.faultable e m = false ∨ ¬∃ tr ∈ s.inFlight e, tr.module = m ∧ tr.steps.head? = some .clockOn) →
    exec (.mrdyRise m) s = .next (afterInput s (.mrdyRise m))) ∧
  ∀ (s : State) (e : Domain) (m : Module) (rest : List DrPosting),
    Running s → s.links.drToEngine[e] = .supplierFault m :: rest →
    let b : State := { s with links := { s.links with drToEngine := s.links.drToEngine.set e rest } }
    (s.faultable e m = true →
      ∃ u, exec (.supplierFaultNotice e) s = .next (u.settleEngine e) ∧ FaultEntered b u e m .supplier) ∧
    (s.faultable e m = false → exec (.supplierFaultNotice e) s = .next (b.settleEngine e))

/-- A module clear on a module in FAULT with cause ACK_TIMEOUT or READY_LOST, a supplier-clear notice on a module of
the engine in FAULT with cause SUPPLIER, and a domain clear on a domain in FAULT apply the release rule: own domain in
FAULT keeps the module with cause DOMAIN, a faulted supplier chain with cause SUPPLIER, else it leaves FAULT to OFF
with its two notices. A domain clear makes the domain OFF first, and of its modules with cause DOMAIN exactly those
with no FAULT left on their chains leave. Any other clear changes nothing there (R111, R144, R145, R146, R148, R150).
The engine at which the event is considers its queue in the event itself, before any other (the model's choice, log
22). -/
def Obligations.ClearsApplyTheReleaseRule : Prop :=
  (∀ (s : State) (e : Domain) (m : Module) (rest : List CtPosting),
    Running s → s.links.ctToEngine[e] = .moduleClear m :: rest →
    let b : State := { s with links := { s.links with ctToEngine := s.links.ctToEngine.set e rest } }
    if (s.modAt m).state = .fault ∧ ((s.modAt m).cause = some .ackTimeout ∨ (s.modAt m).cause = some .readyLost) then
      ∃ u, exec (.moduleClear e) s = .next (u.settleEngine e) ∧ ReleaseApplied b u e m
    else exec (.moduleClear e) s = .next (b.settleEngine e)) ∧
  (∀ (s : State) (e : Domain) (m : Module) (rest : List DrPosting),
    Running s → s.links.drToEngine[e] = .supplierClear m :: rest →
    let b : State := { s with links := { s.links with drToEngine := s.links.drToEngine.set e rest } }
    if (s.engineDir m).present = true ∧ (s.engineDir m).domain = e ∧ (s.modAt m).state = .fault ∧
        (s.modAt m).cause = some .supplier then
      ∃ u, exec (.supplierClearNotice e) s = .next (u.settleEngine e) ∧ ReleaseApplied b u e m
    else exec (.supplierClearNotice e) s = .next (b.settleEngine e)) ∧
  (∀ (s : State) (x : SwDom) (rest : List CtPosting),
    Running s → s.links.ctToEngine[x.domain] = .domainClear x :: rest → s.engines.doms[x].state = .fault →
    SupplierOrder s →
    ∃ u, exec (.domainClear x) s = .next (u.settleEngine x.domain) ∧ OnlyEngines s u ∧ u.timebase = s.timebase ∧
      u.engines.dir = s.engines.dir ∧ u.engines.recs = s.engines.recs ∧
      u.engines.doms[x] = { s.engines.doms[x] with state := .off, cause := none } ∧
      (∀ y : SwDom, y ≠ x → u.engines.doms[y] = s.engines.doms[y]) ∧
      ∀ m : Module,
        let held := (s.engineDir m).present = true ∧ s.engineOf m = x.domain ∧ (s.modAt m).state = .fault ∧
          (s.modAt m).cause = some .domain
        (¬held → u.modAt m = s.modAt m) ∧
        (held → u.modAt m =
          if (supplierChain s.engines.dir 32 m).any (fun k => decide ((u.modAt k).state = .fault)) then
            { s.modAt m with cause := some .supplier }
          else { s.modAt m with state := .off, armed := false, woken := false, cause := none }) ∧
        let leaving := allModules.filter fun k =>
          decide ((s.modAt k).state = .fault) && decide ((u.modAt k).state = .off)
        u.links = { s.links with
          ctToEngine := s.links.ctToEngine.set x.domain rest
          toCt := modifyAt s.links.toCt x.domain (· ++ leaving.map fun k => .level k 0 (s.modAt k).gen)
          toDr := modifyAt s.links.toDr x.domain
            (· ++ leaving.map fun k => .state k { state := .off, armed := false, woken := false }) }) ∧
  ∀ (s : State) (x : SwDom) (rest : List CtPosting),
    Running s → s.links.ctToEngine[x.domain] = .domainClear x :: rest → s.engines.doms[x].state ≠ .fault →
    exec (.domainClear x) s = .next
      { s with links := { s.links with ctToEngine := s.links.ctToEngine.set x.domain rest } }

/-- A SET MODULE TIMING hand-over writes the three times of the module's record and a SET DOMAIN hand-over the three of the
domain's record, and nothing else. A SET MODULE hand-over of a module that stands quiet writes the engines' record in one
event at both engines, keeps its generation, loads the default timing where the module is made present, wants nothing of
one that is made absent, and puts one that joins a domain in FAULT into FAULT with cause DOMAIN (R74, R77, R78, R111,
R113, R169). That nothing is wanted of one that is moved is the model's choice (log 12), and so is the order in which the
two engines then consider their queues (log 22). -/
def Obligations.SettingsReachTheEngines : Prop :=
  (∀ (s : State) (e : Domain) (m : Module) (ack hold idle : Nat) (rest : List CtPosting),
    Running s → s.links.ctToEngine[e] = .setTiming m ack hold idle :: rest →
    exec (.setModuleTimingHandover e) s = .next
      { s with
        links := { s.links with ctToEngine := s.links.ctToEngine.set e rest }
        engines := { s.engines with
          mods := s.engines.mods.set m
            { s.modAt m with ackTimeout := ack, resetHold := hold, idleWindow := idle } } }) ∧
  (∀ (s : State) (x : SwDom) (ramp off linger : Nat) (rest : List CtPosting),
    Running s → s.links.ctToEngine[x.domain] = .setDomain x ramp off linger :: rest →
    exec (.setDomainHandover x) s = .next
      { s with
        links := { s.links with ctToEngine := s.links.ctToEngine.set x.domain rest }
        engines := { s.engines with
          doms := s.engines.doms.set x
            { s.engines.doms[x] with rampTimeout := ramp, offTimeout := off, linger := linger } } }) ∧
  ∀ (s : State) (e : Domain) (m : Module) (r : DirRecord) (restOld restNew : List CtPosting),
    let old := s.engineOf m
    Running s → (e = old ∨ e = r.domain) →
    s.links.ctToEngine[old] = .setModule m r old :: restOld →
    s.links.ctToEngine[r.domain] = .setModule m r old :: restNew →
    EnginesRight s → (s.modAt m).state = .off → (s.modAt m).stepping = false → s.hasEntry old m = false →
    let made := r.present = true ∧ (s.engineDir m).present = false
    let joins := r.present = true ∧ ((s.engineDir m).present = false ∨ old ≠ r.domain)
    ∃ u, exec (.setModuleHandoverEngine e) s = .next ((u.settleEngine old).settleEngine r.domain) ∧
      OnlyEngines s u ∧ u.timebase = s.timebase ∧ u.engines.dir = s.engines.dir.set m r ∧
      u.links = { s.links with
        ctToEngine := (s.links.ctToEngine.set old restOld).set r.domain restNew
        toCt := u.links.toCt, toDr := u.links.toDr, alerts := u.links.alerts } ∧
      u.engines.doms = s.engines.doms ∧ u.engines.recs = s.engines.recs ∧
      (∀ k : Module, k ≠ m → u.modAt k = s.modAt k) ∧
      (u.modAt m).gen = (s.modAt m).gen ∧
      ((u.modAt m).ackTimeout, (u.modAt m).resetHold, (u.modAt m).idleWindow) =
        (if made then (100, 10, 8) else ((s.modAt m).ackTimeout, (s.modAt m).resetHold, (s.modAt m).idleWindow)) ∧
      (u.modAt m).lines = (false, false) ∧ (u.modAt m).stepping = false ∧
      (r.present = false ∨ old ≠ r.domain → (u.modAt m).wanted = .off) ∧
      (if joins ∧ s.domState r.domain = .fault then
        (u.modAt m).state = .fault ∧ (u.modAt m).cause = some .domain ∧
          u.links.toCt = modifyAt s.links.toCt r.domain (· ++ [.fault m .domain]) ∧
          u.links.toDr = modifyAt s.links.toDr r.domain (· ++ [.fault m .domain]) ∧
          u.links.alerts = s.links.alerts ++ faultAlerts s m
      else u.links.toCt = s.links.toCt ∧ u.links.toDr = s.links.toDr ∧ u.links.alerts = s.links.alerts ∧
        (u.modAt m).state = .off ∧ (u.modAt m).cause = none)

/-- A need posting sets the engine's need field in every domain state, and returns a domain in LINGER to ON when it
says present. A rise of DPG completes RAMP_UP to ON, isolation released; a fall completes RAMP_DOWN to OFF; either
leaves the engine's work none and its timer stopped. Other edges, but for a fall in ON and LINGER, change only the
pin. A fall during RAMP_UP after a rise not yet taken is ignored, and that rise completes nothing: the ramp waits for
the next rise. A ramp that begins with DPG high completes to ON in the same event. A domain in ON with no need, every
present module OFF or FAULT and nothing eligible, its engine idle, leaves ON: to LINGER with the count loaded, or at
linger 0 to RAMP_DOWN, which completes to OFF at its begin where DPG is low (R100 to R103, R105 to R109). The engine
at which the event is considers its queue in the event itself, before any other (the model's choice, log 22). -/
def Obligations.NeedAndPowerGoodMoveTheDomain : Prop :=
  (∀ (s : State) (x : SwDom) (b : Bool) (rest : List DrPosting),
    Running s → s.links.drToEngine[x.domain] = .need b :: rest →
    let r := s.engines.doms[x]
    exec (.needPosting x) s = .next (State.settleEngine
      { s with
        links := { s.links with drToEngine := s.links.drToEngine.set x.domain rest }
        engines := { s.engines with
          doms := s.engines.doms.set x
            (if b = true ∧ r.state = .linger then { r with need := b, state := .on, lingerCount := none }
             else { r with need := b }) } } x.domain)) ∧
  (∀ (s : State) (x : SwDom) (en : Entry), s.engines.recs[x.domain].work = .idle → s.engines.doms[x].state = .off →
    s.engines.doms[x].need = true → en ∈ s.engines.recs[x.domain].queue → en.restart = none → s.pins.dpg[x] = true →
    s.engineMove x.domain = some { s with
      engines := { s.engines with
        doms := s.engines.doms.set x { s.engines.doms[x] with state := .on, dsw := true, isoReleased := true }
        recs := s.engines.recs.set x.domain { s.engines.recs[x.domain] with work := .idle, timer := none } } }) ∧
  (∀ (s : State) (x : SwDom), s.engines.recs[x.domain].work = .idle → s.engines.doms[x].state = .on →
    s.engines.doms[x].need = false → (∀ en ∈ s.engines.recs[x.domain].queue, s.eligible x.domain en = false) →
    (∀ m : Module, (s.engineDir m).present = true → s.engineOf m = x.domain →
      (s.modAt m).state = .off ∨ (s.modAt m).state = .fault) →
    let r := s.engines.doms[x]
    let g := s.engines.recs[x.domain]
    let down : DomRec := { r with state := .rampDown, dsw := false, isoReleased := false, lingerCount := none }
    s.engineMove x.domain = some { s with
      engines := { s.engines with
        doms := s.engines.doms.set x
          (if r.linger ≠ 0 then { r with state := .linger, lingerCount := some r.linger }
           else if s.pins.dpg[x] = true then down else { down with state := .off })
        recs := s.engines.recs.set x.domain
          (if r.linger ≠ 0 then g
           else if s.pins.dpg[x] = true then { g with work := .ramp, timer := some (10 * r.offTimeout) }
           else { g with work := .idle, timer := none }) } }) ∧
  (∀ (s : State) (x : SwDom), Running s → Settled s (.dpg x) → s.pins.dpg[x] = false →
    let b := afterInput s (.dpgRise x)
    let r := s.engines.doms[x]
    if r.state = .rampUp then
      exec (.dpgRise x) s = .next (State.settleEngine
        { b with
          engines := { s.engines with
            doms := s.engines.doms.set x { r with state := .on, isoReleased := true }
            recs := s.engines.recs.set x.domain
              { s.engines.recs[x.domain] with work := .idle, timer := none } } } x.domain)
    else exec (.dpgRise x) s = .next b) ∧
  (∀ (s : State) (x : SwDom) (waiting : List Bool), Running s → s.engines.doms[x].state = .rampUp →
    waiting = [true] ∧ s.pins.dpg[x] = true ∨ waiting = [true, false] ∧ s.pins.dpg[x] = false →
    s.pins.edges.filter (fun g => decide (g.pin = .dpg x)) = waiting.map (fun up => { pin := .dpg x, up := up }) →
    let taken (level : Bool) : State :=
      { s with pins := { s.pins with
          dpg := s.pins.dpg.set x level
          edges := s.pins.edges.filter fun g => decide (g.pin ≠ .dpg x) } }
    let on (t : State) : State :=
      { t with
        engines := { t.engines with
          doms := t.engines.doms.set x { t.engines.doms[x] with state := .on, isoReleased := true }
          recs := t.engines.recs.set x.domain { t.engines.recs[x.domain] with work := .idle, timer := none } } }
    exec (.dpgFall x) s = .next (taken false) ∧
      exec (.dpgRise x) s = .next ((on (taken true)).settleEngine x.domain)) ∧
  (∀ (s : State) (x : SwDom), { pin := .dpg x, up := false } ∈ s.pins.edges →
    s.takeEdge { pin := .dpg x, up := true } = s) ∧
  ∀ (s : State) (x : SwDom), Running s → Settled s (.dpg x) → s.pins.dpg[x] = true →
    let b := afterInput s (.dpgFall x)
    let r := s.engines.doms[x]
    (r.state = .rampDown →
      exec (.dpgFall x) s = .next (State.settleEngine
        { b with
          engines := { s.engines with
            doms := s.engines.doms.set x { r with state := .off }
            recs := s.engines.recs.set x.domain
              { s.engines.recs[x.domain] with work := .idle, timer := none } } } x.domain)) ∧
    (r.state = .off ∨ r.state = .rampUp ∨ r.state = .fault → exec (.dpgFall x) s = .next b)

/-- A ramp timeout, an off timeout and a loss of power put the domain into FAULT with their causes: switch off, isolation
on, linger count gone, need and timing kept, work none, step timer stopped, queue empty. In the same event every present
module of the domain not in FAULT enters FAULT with cause DOMAIN, in ascending index, each with its two fault notices, its
FAULT alerts to the owner port and to HP0, and the end notice and RESTART_FAILED of a restart that stood; then DOMAIN_FAULT
goes to HP0 (R102, R107, R109, R110, R136, R139, R143). The two timeouts first let the time left on the step timer pass, at
the timebase and at every step timer (the model's choice, log 6). -/
def Obligations.DomainsEnterFault : Prop :=
  ∀ (s : State) (x : SwDom) (i : Instr) (cause : DomCause), Running s → EnginesRight (afterInput s i) →
    (i = .rampTimeout x ∧ s.engines.doms[x].state = .rampUp ∧ cause = .noPowerGood ∨
      i = .offTimeout x ∧ s.engines.doms[x].state = .rampDown ∧ cause = .stuckOn ∨
      i = .dpgFall x ∧ s.pins.dpg[x] = true ∧ Settled s (.dpg x) ∧ cause = .powerLost ∧
        (s.engines.doms[x].state = .on ∨ s.engines.doms[x].state = .linger)) →
    let b := afterInput s i
    let standing := b.restartStanding x.domain
    let faulted := allModules.filter fun m => b.faultable x.domain m
    ∃ t, exec i s = .next t ∧ OnlyEngines b t ∧ t.timebase = b.timebase ∧ t.engines.dir = b.engines.dir ∧
      t.engines.doms[x] = { b.engines.doms[x] with
        state := .fault, cause := some cause, lingerCount := none, dsw := false, isoReleased := false } ∧
      (∀ y : SwDom, y ≠ x → t.engines.doms[y] = b.engines.doms[y]) ∧
      t.engines.recs[x.domain] = { queue := [], work := .idle, timer := none } ∧
      (∀ d : Domain, d ≠ x.domain → t.engines.recs[d] = b.engines.recs[d]) ∧
      (∀ m : Module, t.modAt m =
        if b.faultable x.domain m then
          { b.modAt m with
            state := .fault, armed := false, woken := false, cause := some .domain, wanted := .off, stepping := false
            clockOpen := false, resetReleased := false, pendingRestart := none }
        else b.modAt m) ∧
      t.links = { b.links with
        toCt := modifyAt b.links.toCt x.domain
          (· ++ faulted.flatMap fun m => .fault m .domain :: if (standing m).isSome then [.restartEnd m] else [])
        toDr := modifyAt b.links.toDr x.domain (· ++ faulted.map fun m => .fault m .domain)
        alerts := b.links.alerts ++ (faulted.flatMap fun m => faultAlerts b m ++ failureAlerts m (standing m)) ++
          [{ port := 0, subject := .domain x, reason := .domainFault }] }

/-- The tick at an engine, as LINGER_TICK takes it, and LINGER_RUNS_OUT where the domain's count stands at 1: in
LINGER a count of 2 or more falls by one; at 1 RAMP_DOWN begins in the tick's event, with the switch off, isolation on
and the off timeout loaded, or, where DPG is low already, completes to OFF at its begin; with no count running only
the tick is taken (R48, R104, R106, R107). The engine at which the event is considers its queue in the event itself,
before any other (the model's choice, log 22). -/
def Obligations.TheTickCountsTheLinger : Prop :=
  (∀ (s : State) (x : SwDom) (n : Nat), Running s → s.ticks.eng[x.domain] = true →
    s.engines.doms[x].state = .linger → s.engines.doms[x].lingerCount = some n → 2 ≤ n →
    exec (.lingerTick x.domain) s = .next
      { s with
        ticks := { s.ticks with eng := s.ticks.eng.set x.domain false }
        engines := { s.engines with
          doms := s.engines.doms.set x { s.engines.doms[x] with lingerCount := some (n - 1) } } }) ∧
  (∀ (s : State) (x : SwDom) (i : Instr), Running s → s.ticks.eng[x.domain] = true →
    s.engines.doms[x].state = .linger → s.engines.doms[x].lingerCount = some 1 → s.pins.dpg[x] = true →
    (i = .lingerTick x.domain ∨ i = .lingerRunsOut x) →
    exec i s = .next
      { s with
        ticks := { s.ticks with eng := s.ticks.eng.set x.domain false }
        engines := { s.engines with
          doms := s.engines.doms.set x
            { s.engines.doms[x] with state := .rampDown, dsw := false, isoReleased := false, lingerCount := none }
          recs := s.engines.recs.set x.domain
            { s.engines.recs[x.domain] with
              work := .ramp, timer := some (10 * s.engines.doms[x].offTimeout) } } }) ∧
  (∀ (s : State) (x : SwDom) (i : Instr), Running s → s.ticks.eng[x.domain] = true →
    s.engines.doms[x].state = .linger → s.engines.doms[x].lingerCount = some 1 → s.pins.dpg[x] = false →
    (i = .lingerTick x.domain ∨ i = .lingerRunsOut x) →
    exec i s = .next (State.settleEngine
      { s with
        ticks := { s.ticks with eng := s.ticks.eng.set x.domain false }
        engines := { s.engines with
          doms := s.engines.doms.set x
            { s.engines.doms[x] with state := .off, dsw := false, isoReleased := false, lingerCount := none }
          recs := s.engines.recs.set x.domain
            { s.engines.recs[x.domain] with work := .idle, timer := none } } } x.domain)) ∧
  ∀ (s : State) (e : Domain), Running s → s.ticks.eng[e] = true →
    (∀ x : SwDom, x.domain = e → s.engines.doms[x].lingerCount = none) →
    exec (.lingerTick e) s = .next { s with ticks := { s.ticks with eng := s.ticks.eng.set e false } }

/-! ### The machine as a whole -/

/-- A request from HP1, HP2 or HP3 touches no other port: no claim another port holds, no other port's count, quota or
change set, no other port controller (R16, R20, R27, R158, R166). -/
def Obligations.HostsTouchOnlyTheirOwnClaims : Prop :=
  ∀ (c : Instr) (code : Byte) (s t : State) (p : Port) (r : Request),
    requestCode c = some code → Serving s p r code → p ≠ 0 → exec c s = .next t →
    ∀ q : Port, q ≠ p →
      t.ports[q] = s.ports[q] ∧ t.ct.ports[q] = { s.ct.ports[q] with cursor := t.ct.ports[q].cursor } ∧
      ∀ sl : Slot, (∀ c ∈ s.ct.claimAt sl, c.holder = q → t.ct.slots[sl] = s.ct.slots[sl]) ∧
        ∀ c ∈ t.ct.claimAt sl, c.holder = q → s.ct.claimAt sl = some c

/-- A slot's generation is 0 after reset, rises by one (255 to 0) each time the slot becomes FREE, and is otherwise
unchanged but by device reset, which sets it to 0: over every command and every state (R3). -/
def Obligations.GenerationsRiseOnlyAtFreeing : Prop :=
  (∀ sl : Slot, State.reset.ct.slots[sl].gen = 0) ∧
  (∀ (s : State) (sl : Slot), ∃ t, exec .deviceResetAsserted s = .next t ∧ t.ct.slots[sl].gen = 0) ∧
  ∀ (s t : State), Machine.step s = .next t → s.pending.head? ≠ some .deviceResetAsserted →
    ∀ sl : Slot, t.ct.slots[sl].gen =
      if (s.ct.claimAt sl).isSome = true ∧ t.ct.claimAt sl = none then s.ct.slots[sl].gen + 1
      else s.ct.slots[sl].gen

/-- Every step keeps the claim lists the exact lists of live claims, the cursors on members of their lists, and the claimed
levels the highest of their lists (R6, R7, R8, R23, R24). -/
def Obligations.EveryStepKeepsTheClaimLists : Prop :=
  ∀ s t : State, ListsRight s ∧ CursorsRight s ∧ ClaimedRight s → Machine.step s = .next t →
    ListsRight t ∧ CursorsRight t ∧ ClaimedRight t

/-- Every step keeps the counts the numbers of slots held, the change sets ascending sets of their ports' slots, and every
claim's fields within Table 1-1, its lease remaining from 1 to its length just while it is live and leased (R1, R18, R20,
R49). -/
def Obligations.EveryStepKeepsCountsChangesAndLeases : Prop :=
  ∀ s t : State, CountsRight s ∧ ChangeSetsRight s ∧ ClaimsRight s → Machine.step s = .next t →
    CountsRight t ∧ ChangeSetsRight t ∧ ClaimsRight t

/-- Every step keeps each alert set ascending with nonempty reasons, and WAITING shown just while the slot is occupied, with
the waiting request's sequence (R153, R155, R156, R162). -/
def Obligations.EveryStepKeepsThePorts : Prop :=
  ∀ s t : State, AlertSetsRight s ∧ WaitingRight s → Machine.step s = .next t → AlertSetsRight t ∧ WaitingRight t

/-- Every step keeps the timebase within its period and its dividers 1 to 64, and every block at its reset values for as
long as RESET_N is asserted (R25, R46, R47, R73, R96, R154, R167). -/
def Obligations.EveryStepKeepsTheTimebaseAndReset : Prop :=
  ∀ s t : State, TimebaseRight s ∧ ResetHeld s → Machine.step s = .next t → TimebaseRight t ∧ ResetHeld t

/-- Every step keeps suppliers below their dependents, and what the demand resolver works out in agreement: effective
levels, watches, wake needs, posted targets and needs (R58, R61, R65, R68, R116, R120). -/
def Obligations.EveryStepKeepsDemandWorkedOut : Prop :=
  ∀ s t : State, SupplierOrder s ∧ DemandRight s → Machine.step s = .next t → SupplierOrder t ∧ DemandRight t

/-- Every step keeps the engines sound: lines as their states and steps in flight give, queues and stepping marks as laid
down, domain lines as Table 6-3 gives, and no module out of OFF in a domain that is not ON (R75, R76, R80, R95, R99, R103,
R110, R112). -/
def Obligations.EveryStepKeepsTheEnginesSafe : Prop :=
  ∀ s t : State, EnginesRight s → Machine.step s = .next t → EnginesRight t

/-- The state after device reset meets every condition that the statements above say every step keeps. -/
def Obligations.TheResetStateIsSound : Prop :=
  ListsRight State.reset ∧ CursorsRight State.reset ∧ ClaimedRight State.reset ∧ CountsRight State.reset ∧
    ChangeSetsRight State.reset ∧ ClaimsRight State.reset ∧ AlertSetsRight State.reset ∧ WaitingRight State.reset ∧
    TimebaseRight State.reset ∧ ResetHeld State.reset ∧ SupplierOrder State.reset ∧ DemandRight State.reset ∧
    EnginesRight State.reset
end

