-- ==== Sys2Proof/Laws/State.lean ====
section
/-! SUPPORT. Every update of the state, field by field: one lemma a field, each true by unfolding, so that no proof
unfolds a record update. -/

namespace Sys2Proof.Machine

/-! ### `onCt`: one part changes -/

@[simp] theorem State.onCt_ct (s : State) (f : Ct → Ct) : (s.onCt f).ct = f s.ct := rfl
@[simp] theorem State.onCt_dr (s : State) (f : Ct → Ct) : (s.onCt f).dr = s.dr := rfl
@[simp] theorem State.onCt_engines (s : State) (f : Ct → Ct) : (s.onCt f).engines = s.engines := rfl
@[simp] theorem State.onCt_timebase (s : State) (f : Ct → Ct) : (s.onCt f).timebase = s.timebase := rfl
@[simp] theorem State.onCt_ticks (s : State) (f : Ct → Ct) : (s.onCt f).ticks = s.ticks := rfl
@[simp] theorem State.onCt_ports (s : State) (f : Ct → Ct) : (s.onCt f).ports = s.ports := rfl
@[simp] theorem State.onCt_lastServed (s : State) (f : Ct → Ct) : (s.onCt f).lastServed = s.lastServed := rfl
@[simp] theorem State.onCt_links (s : State) (f : Ct → Ct) : (s.onCt f).links = s.links := rfl
@[simp] theorem State.onCt_pins (s : State) (f : Ct → Ct) : (s.onCt f).pins = s.pins := rfl
@[simp] theorem State.onCt_inReset (s : State) (f : Ct → Ct) : (s.onCt f).inReset = s.inReset := rfl
@[simp] theorem State.onCt_pending (s : State) (f : Ct → Ct) : (s.onCt f).pending = s.pending := rfl

/-! ### `onDr`: one part changes -/

@[simp] theorem State.onDr_ct (s : State) (f : Dr → Dr) : (s.onDr f).ct = s.ct := rfl
@[simp] theorem State.onDr_dr (s : State) (f : Dr → Dr) : (s.onDr f).dr = f s.dr := rfl
@[simp] theorem State.onDr_engines (s : State) (f : Dr → Dr) : (s.onDr f).engines = s.engines := rfl
@[simp] theorem State.onDr_timebase (s : State) (f : Dr → Dr) : (s.onDr f).timebase = s.timebase := rfl
@[simp] theorem State.onDr_ticks (s : State) (f : Dr → Dr) : (s.onDr f).ticks = s.ticks := rfl
@[simp] theorem State.onDr_ports (s : State) (f : Dr → Dr) : (s.onDr f).ports = s.ports := rfl
@[simp] theorem State.onDr_lastServed (s : State) (f : Dr → Dr) : (s.onDr f).lastServed = s.lastServed := rfl
@[simp] theorem State.onDr_links (s : State) (f : Dr → Dr) : (s.onDr f).links = s.links := rfl
@[simp] theorem State.onDr_pins (s : State) (f : Dr → Dr) : (s.onDr f).pins = s.pins := rfl
@[simp] theorem State.onDr_inReset (s : State) (f : Dr → Dr) : (s.onDr f).inReset = s.inReset := rfl
@[simp] theorem State.onDr_pending (s : State) (f : Dr → Dr) : (s.onDr f).pending = s.pending := rfl

/-! ### `onEngines`: one part changes -/

@[simp] theorem State.onEngines_ct (s : State) (f : Engines → Engines) : (s.onEngines f).ct = s.ct := rfl
@[simp] theorem State.onEngines_dr (s : State) (f : Engines → Engines) : (s.onEngines f).dr = s.dr := rfl
@[simp] theorem State.onEngines_engines (s : State) (f : Engines → Engines) :
    (s.onEngines f).engines = f s.engines := rfl
@[simp] theorem State.onEngines_timebase (s : State) (f : Engines → Engines) :
    (s.onEngines f).timebase = s.timebase := rfl
@[simp] theorem State.onEngines_ticks (s : State) (f : Engines → Engines) : (s.onEngines f).ticks = s.ticks := rfl
@[simp] theorem State.onEngines_ports (s : State) (f : Engines → Engines) : (s.onEngines f).ports = s.ports := rfl
@[simp] theorem State.onEngines_lastServed (s : State) (f : Engines → Engines) :
    (s.onEngines f).lastServed = s.lastServed := rfl
@[simp] theorem State.onEngines_links (s : State) (f : Engines → Engines) : (s.onEngines f).links = s.links := rfl
@[simp] theorem State.onEngines_pins (s : State) (f : Engines → Engines) : (s.onEngines f).pins = s.pins := rfl
@[simp] theorem State.onEngines_inReset (s : State) (f : Engines → Engines) :
    (s.onEngines f).inReset = s.inReset := rfl
@[simp] theorem State.onEngines_pending (s : State) (f : Engines → Engines) :
    (s.onEngines f).pending = s.pending := rfl

/-! ### `onLinks`: one part changes -/

@[simp] theorem State.onLinks_ct (s : State) (f : Links → Links) : (s.onLinks f).ct = s.ct := rfl
@[simp] theorem State.onLinks_dr (s : State) (f : Links → Links) : (s.onLinks f).dr = s.dr := rfl
@[simp] theorem State.onLinks_engines (s : State) (f : Links → Links) : (s.onLinks f).engines = s.engines := rfl
@[simp] theorem State.onLinks_timebase (s : State) (f : Links → Links) : (s.onLinks f).timebase = s.timebase := rfl
@[simp] theorem State.onLinks_ticks (s : State) (f : Links → Links) : (s.onLinks f).ticks = s.ticks := rfl
@[simp] theorem State.onLinks_ports (s : State) (f : Links → Links) : (s.onLinks f).ports = s.ports := rfl
@[simp] theorem State.onLinks_lastServed (s : State) (f : Links → Links) :
    (s.onLinks f).lastServed = s.lastServed := rfl
@[simp] theorem State.onLinks_links (s : State) (f : Links → Links) : (s.onLinks f).links = f s.links := rfl
@[simp] theorem State.onLinks_pins (s : State) (f : Links → Links) : (s.onLinks f).pins = s.pins := rfl
@[simp] theorem State.onLinks_inReset (s : State) (f : Links → Links) : (s.onLinks f).inReset = s.inReset := rfl
@[simp] theorem State.onLinks_pending (s : State) (f : Links → Links) : (s.onLinks f).pending = s.pending := rfl

/-! ### `onPins`: one part changes -/

@[simp] theorem State.onPins_ct (s : State) (f : Pins → Pins) : (s.onPins f).ct = s.ct := rfl
@[simp] theorem State.onPins_dr (s : State) (f : Pins → Pins) : (s.onPins f).dr = s.dr := rfl
@[simp] theorem State.onPins_engines (s : State) (f : Pins → Pins) : (s.onPins f).engines = s.engines := rfl
@[simp] theorem State.onPins_timebase (s : State) (f : Pins → Pins) : (s.onPins f).timebase = s.timebase := rfl
@[simp] theorem State.onPins_ticks (s : State) (f : Pins → Pins) : (s.onPins f).ticks = s.ticks := rfl
@[simp] theorem State.onPins_ports (s : State) (f : Pins → Pins) : (s.onPins f).ports = s.ports := rfl
@[simp] theorem State.onPins_lastServed (s : State) (f : Pins → Pins) : (s.onPins f).lastServed = s.lastServed := rfl
@[simp] theorem State.onPins_links (s : State) (f : Pins → Pins) : (s.onPins f).links = s.links := rfl
@[simp] theorem State.onPins_pins (s : State) (f : Pins → Pins) : (s.onPins f).pins = f s.pins := rfl
@[simp] theorem State.onPins_inReset (s : State) (f : Pins → Pins) : (s.onPins f).inReset = s.inReset := rfl
@[simp] theorem State.onPins_pending (s : State) (f : Pins → Pins) : (s.onPins f).pending = s.pending := rfl

/-! ### `onTicks`: one part changes -/

@[simp] theorem State.onTicks_ct (s : State) (f : TickWaiting → TickWaiting) : (s.onTicks f).ct = s.ct := rfl
@[simp] theorem State.onTicks_dr (s : State) (f : TickWaiting → TickWaiting) : (s.onTicks f).dr = s.dr := rfl
@[simp] theorem State.onTicks_engines (s : State) (f : TickWaiting → TickWaiting) :
    (s.onTicks f).engines = s.engines := rfl
@[simp] theorem State.onTicks_timebase (s : State) (f : TickWaiting → TickWaiting) :
    (s.onTicks f).timebase = s.timebase := rfl
@[simp] theorem State.onTicks_ticks (s : State) (f : TickWaiting → TickWaiting) :
    (s.onTicks f).ticks = f s.ticks := rfl
@[simp] theorem State.onTicks_ports (s : State) (f : TickWaiting → TickWaiting) : (s.onTicks f).ports = s.ports := rfl
@[simp] theorem State.onTicks_lastServed (s : State) (f : TickWaiting → TickWaiting) :
    (s.onTicks f).lastServed = s.lastServed := rfl
@[simp] theorem State.onTicks_links (s : State) (f : TickWaiting → TickWaiting) : (s.onTicks f).links = s.links := rfl
@[simp] theorem State.onTicks_pins (s : State) (f : TickWaiting → TickWaiting) : (s.onTicks f).pins = s.pins := rfl
@[simp] theorem State.onTicks_inReset (s : State) (f : TickWaiting → TickWaiting) :
    (s.onTicks f).inReset = s.inReset := rfl
@[simp] theorem State.onTicks_pending (s : State) (f : TickWaiting → TickWaiting) :
    (s.onTicks f).pending = s.pending := rfl

/-! ### `onTimebase`: one part changes -/

@[simp] theorem State.onTimebase_ct (s : State) (f : Timebase → Timebase) : (s.onTimebase f).ct = s.ct := rfl
@[simp] theorem State.onTimebase_dr (s : State) (f : Timebase → Timebase) : (s.onTimebase f).dr = s.dr := rfl
@[simp] theorem State.onTimebase_engines (s : State) (f : Timebase → Timebase) :
    (s.onTimebase f).engines = s.engines := rfl
@[simp] theorem State.onTimebase_timebase (s : State) (f : Timebase → Timebase) :
    (s.onTimebase f).timebase = f s.timebase := rfl
@[simp] theorem State.onTimebase_ticks (s : State) (f : Timebase → Timebase) : (s.onTimebase f).ticks = s.ticks := rfl
@[simp] theorem State.onTimebase_ports (s : State) (f : Timebase → Timebase) : (s.onTimebase f).ports = s.ports := rfl
@[simp] theorem State.onTimebase_lastServed (s : State) (f : Timebase → Timebase) :
    (s.onTimebase f).lastServed = s.lastServed := rfl
@[simp] theorem State.onTimebase_links (s : State) (f : Timebase → Timebase) : (s.onTimebase f).links = s.links := rfl
@[simp] theorem State.onTimebase_pins (s : State) (f : Timebase → Timebase) : (s.onTimebase f).pins = s.pins := rfl
@[simp] theorem State.onTimebase_inReset (s : State) (f : Timebase → Timebase) :
    (s.onTimebase f).inReset = s.inReset := rfl
@[simp] theorem State.onTimebase_pending (s : State) (f : Timebase → Timebase) :
    (s.onTimebase f).pending = s.pending := rfl

/-! ### `onPort`: one port controller changes -/

@[simp] theorem State.onPort_ct (s : State) (p : Port) (f : PortRec → PortRec) : (s.onPort p f).ct = s.ct := rfl
@[simp] theorem State.onPort_dr (s : State) (p : Port) (f : PortRec → PortRec) : (s.onPort p f).dr = s.dr := rfl
@[simp] theorem State.onPort_engines (s : State) (p : Port) (f : PortRec → PortRec) :
    (s.onPort p f).engines = s.engines := rfl
@[simp] theorem State.onPort_timebase (s : State) (p : Port) (f : PortRec → PortRec) :
    (s.onPort p f).timebase = s.timebase := rfl
@[simp] theorem State.onPort_ticks (s : State) (p : Port) (f : PortRec → PortRec) :
    (s.onPort p f).ticks = s.ticks := rfl
@[simp] theorem State.onPort_ports (s : State) (p : Port) (f : PortRec → PortRec) :
    (s.onPort p f).ports = modifyAt s.ports p f := rfl
@[simp] theorem State.onPort_lastServed (s : State) (p : Port) (f : PortRec → PortRec) :
    (s.onPort p f).lastServed = s.lastServed := rfl
@[simp] theorem State.onPort_links (s : State) (p : Port) (f : PortRec → PortRec) :
    (s.onPort p f).links = s.links := rfl
@[simp] theorem State.onPort_pins (s : State) (p : Port) (f : PortRec → PortRec) : (s.onPort p f).pins = s.pins := rfl
@[simp] theorem State.onPort_inReset (s : State) (p : Port) (f : PortRec → PortRec) :
    (s.onPort p f).inReset = s.inReset := rfl
@[simp] theorem State.onPort_pending (s : State) (p : Port) (f : PortRec → PortRec) :
    (s.onPort p f).pending = s.pending := rfl

/-! ### `onMod`: one module record changes -/

@[simp] theorem State.onMod_ct (s : State) (m : Module) (f : ModRec → ModRec) : (s.onMod m f).ct = s.ct := rfl
@[simp] theorem State.onMod_dr (s : State) (m : Module) (f : ModRec → ModRec) : (s.onMod m f).dr = s.dr := rfl
@[simp] theorem State.onMod_engines (s : State) (m : Module) (f : ModRec → ModRec) :
    (s.onMod m f).engines = { s.engines with mods := modifyAt s.engines.mods m f } := rfl
@[simp] theorem State.onMod_timebase (s : State) (m : Module) (f : ModRec → ModRec) :
    (s.onMod m f).timebase = s.timebase := rfl
@[simp] theorem State.onMod_ticks (s : State) (m : Module) (f : ModRec → ModRec) :
    (s.onMod m f).ticks = s.ticks := rfl
@[simp] theorem State.onMod_ports (s : State) (m : Module) (f : ModRec → ModRec) :
    (s.onMod m f).ports = s.ports := rfl
@[simp] theorem State.onMod_lastServed (s : State) (m : Module) (f : ModRec → ModRec) :
    (s.onMod m f).lastServed = s.lastServed := rfl
@[simp] theorem State.onMod_links (s : State) (m : Module) (f : ModRec → ModRec) :
    (s.onMod m f).links = s.links := rfl
@[simp] theorem State.onMod_pins (s : State) (m : Module) (f : ModRec → ModRec) : (s.onMod m f).pins = s.pins := rfl
@[simp] theorem State.onMod_inReset (s : State) (m : Module) (f : ModRec → ModRec) :
    (s.onMod m f).inReset = s.inReset := rfl
@[simp] theorem State.onMod_pending (s : State) (m : Module) (f : ModRec → ModRec) :
    (s.onMod m f).pending = s.pending := rfl

/-! ### `onRec`: what one engine holds changes -/

@[simp] theorem State.onRec_ct (s : State) (e : Domain) (f : EngineRec → EngineRec) : (s.onRec e f).ct = s.ct := rfl
@[simp] theorem State.onRec_dr (s : State) (e : Domain) (f : EngineRec → EngineRec) : (s.onRec e f).dr = s.dr := rfl
@[simp] theorem State.onRec_engines (s : State) (e : Domain) (f : EngineRec → EngineRec) :
    (s.onRec e f).engines = { s.engines with recs := modifyAt s.engines.recs e f } := rfl
@[simp] theorem State.onRec_timebase (s : State) (e : Domain) (f : EngineRec → EngineRec) :
    (s.onRec e f).timebase = s.timebase := rfl
@[simp] theorem State.onRec_ticks (s : State) (e : Domain) (f : EngineRec → EngineRec) :
    (s.onRec e f).ticks = s.ticks := rfl
@[simp] theorem State.onRec_ports (s : State) (e : Domain) (f : EngineRec → EngineRec) :
    (s.onRec e f).ports = s.ports := rfl
@[simp] theorem State.onRec_lastServed (s : State) (e : Domain) (f : EngineRec → EngineRec) :
    (s.onRec e f).lastServed = s.lastServed := rfl
@[simp] theorem State.onRec_links (s : State) (e : Domain) (f : EngineRec → EngineRec) :
    (s.onRec e f).links = s.links := rfl
@[simp] theorem State.onRec_pins (s : State) (e : Domain) (f : EngineRec → EngineRec) :
    (s.onRec e f).pins = s.pins := rfl
@[simp] theorem State.onRec_inReset (s : State) (e : Domain) (f : EngineRec → EngineRec) :
    (s.onRec e f).inReset = s.inReset := rfl
@[simp] theorem State.onRec_pending (s : State) (e : Domain) (f : EngineRec → EngineRec) :
    (s.onRec e f).pending = s.pending := rfl

/-! ### `onDom`: one domain record changes -/

@[simp] theorem State.onDom_ct (s : State) (x : SwDom) (f : DomRec → DomRec) : (s.onDom x f).ct = s.ct := rfl
@[simp] theorem State.onDom_dr (s : State) (x : SwDom) (f : DomRec → DomRec) : (s.onDom x f).dr = s.dr := rfl
@[simp] theorem State.onDom_engines (s : State) (x : SwDom) (f : DomRec → DomRec) :
    (s.onDom x f).engines = { s.engines with doms := modifyAt s.engines.doms x f } := rfl
@[simp] theorem State.onDom_timebase (s : State) (x : SwDom) (f : DomRec → DomRec) :
    (s.onDom x f).timebase = s.timebase := rfl
@[simp] theorem State.onDom_ticks (s : State) (x : SwDom) (f : DomRec → DomRec) : (s.onDom x f).ticks = s.ticks := rfl
@[simp] theorem State.onDom_ports (s : State) (x : SwDom) (f : DomRec → DomRec) : (s.onDom x f).ports = s.ports := rfl
@[simp] theorem State.onDom_lastServed (s : State) (x : SwDom) (f : DomRec → DomRec) :
    (s.onDom x f).lastServed = s.lastServed := rfl
@[simp] theorem State.onDom_links (s : State) (x : SwDom) (f : DomRec → DomRec) : (s.onDom x f).links = s.links := rfl
@[simp] theorem State.onDom_pins (s : State) (x : SwDom) (f : DomRec → DomRec) : (s.onDom x f).pins = s.pins := rfl
@[simp] theorem State.onDom_inReset (s : State) (x : SwDom) (f : DomRec → DomRec) :
    (s.onDom x f).inReset = s.inReset := rfl
@[simp] theorem State.onDom_pending (s : State) (x : SwDom) (f : DomRec → DomRec) :
    (s.onDom x f).pending = s.pending := rfl

/-! ### `noticeCt`: a notice sets out for the claim table -/

@[simp] theorem State.noticeCt_ct (s : State) (e : Domain) (n : CtNotice) : (s.noticeCt e n).ct = s.ct := rfl
@[simp] theorem State.noticeCt_dr (s : State) (e : Domain) (n : CtNotice) : (s.noticeCt e n).dr = s.dr := rfl
@[simp] theorem State.noticeCt_engines (s : State) (e : Domain) (n : CtNotice) :
    (s.noticeCt e n).engines = s.engines := rfl
@[simp] theorem State.noticeCt_timebase (s : State) (e : Domain) (n : CtNotice) :
    (s.noticeCt e n).timebase = s.timebase := rfl
@[simp] theorem State.noticeCt_ticks (s : State) (e : Domain) (n : CtNotice) : (s.noticeCt e n).ticks = s.ticks := rfl
@[simp] theorem State.noticeCt_ports (s : State) (e : Domain) (n : CtNotice) : (s.noticeCt e n).ports = s.ports := rfl
@[simp] theorem State.noticeCt_lastServed (s : State) (e : Domain) (n : CtNotice) :
    (s.noticeCt e n).lastServed = s.lastServed := rfl
@[simp] theorem State.noticeCt_links (s : State) (e : Domain) (n : CtNotice) :
    (s.noticeCt e n).links = { s.links with toCt := modifyAt s.links.toCt e (· ++ [n]) } := rfl
@[simp] theorem State.noticeCt_pins (s : State) (e : Domain) (n : CtNotice) : (s.noticeCt e n).pins = s.pins := rfl
@[simp] theorem State.noticeCt_inReset (s : State) (e : Domain) (n : CtNotice) :
    (s.noticeCt e n).inReset = s.inReset := rfl
@[simp] theorem State.noticeCt_pending (s : State) (e : Domain) (n : CtNotice) :
    (s.noticeCt e n).pending = s.pending := rfl

/-! ### `noticeDr`: a notice sets out for the demand resolver -/

@[simp] theorem State.noticeDr_ct (s : State) (e : Domain) (n : DrNotice) : (s.noticeDr e n).ct = s.ct := rfl
@[simp] theorem State.noticeDr_dr (s : State) (e : Domain) (n : DrNotice) : (s.noticeDr e n).dr = s.dr := rfl
@[simp] theorem State.noticeDr_engines (s : State) (e : Domain) (n : DrNotice) :
    (s.noticeDr e n).engines = s.engines := rfl
@[simp] theorem State.noticeDr_timebase (s : State) (e : Domain) (n : DrNotice) :
    (s.noticeDr e n).timebase = s.timebase := rfl
@[simp] theorem State.noticeDr_ticks (s : State) (e : Domain) (n : DrNotice) : (s.noticeDr e n).ticks = s.ticks := rfl
@[simp] theorem State.noticeDr_ports (s : State) (e : Domain) (n : DrNotice) : (s.noticeDr e n).ports = s.ports := rfl
@[simp] theorem State.noticeDr_lastServed (s : State) (e : Domain) (n : DrNotice) :
    (s.noticeDr e n).lastServed = s.lastServed := rfl
@[simp] theorem State.noticeDr_links (s : State) (e : Domain) (n : DrNotice) :
    (s.noticeDr e n).links = { s.links with toDr := modifyAt s.links.toDr e (· ++ [n]) } := rfl
@[simp] theorem State.noticeDr_pins (s : State) (e : Domain) (n : DrNotice) : (s.noticeDr e n).pins = s.pins := rfl
@[simp] theorem State.noticeDr_inReset (s : State) (e : Domain) (n : DrNotice) :
    (s.noticeDr e n).inReset = s.inReset := rfl
@[simp] theorem State.noticeDr_pending (s : State) (e : Domain) (n : DrNotice) :
    (s.noticeDr e n).pending = s.pending := rfl

/-! ### `postEngine`: the claim table posts to an engine -/

@[simp] theorem State.postEngine_ct (s : State) (e : Domain) (p : CtPosting) : (s.postEngine e p).ct = s.ct := rfl
@[simp] theorem State.postEngine_dr (s : State) (e : Domain) (p : CtPosting) : (s.postEngine e p).dr = s.dr := rfl
@[simp] theorem State.postEngine_engines (s : State) (e : Domain) (p : CtPosting) :
    (s.postEngine e p).engines = s.engines := rfl
@[simp] theorem State.postEngine_timebase (s : State) (e : Domain) (p : CtPosting) :
    (s.postEngine e p).timebase = s.timebase := rfl
@[simp] theorem State.postEngine_ticks (s : State) (e : Domain) (p : CtPosting) :
    (s.postEngine e p).ticks = s.ticks := rfl
@[simp] theorem State.postEngine_ports (s : State) (e : Domain) (p : CtPosting) :
    (s.postEngine e p).ports = s.ports := rfl
@[simp] theorem State.postEngine_lastServed (s : State) (e : Domain) (p : CtPosting) :
    (s.postEngine e p).lastServed = s.lastServed := rfl
@[simp] theorem State.postEngine_links (s : State) (e : Domain) (p : CtPosting) :
    (s.postEngine e p).links = { s.links with ctToEngine := modifyAt s.links.ctToEngine e (· ++ [p]) } := rfl
@[simp] theorem State.postEngine_pins (s : State) (e : Domain) (p : CtPosting) :
    (s.postEngine e p).pins = s.pins := rfl
@[simp] theorem State.postEngine_inReset (s : State) (e : Domain) (p : CtPosting) :
    (s.postEngine e p).inReset = s.inReset := rfl
@[simp] theorem State.postEngine_pending (s : State) (e : Domain) (p : CtPosting) :
    (s.postEngine e p).pending = s.pending := rfl

/-! ### `demandEngine`: the demand resolver posts to an engine -/

@[simp] theorem State.demandEngine_ct (s : State) (e : Domain) (p : DrPosting) : (s.demandEngine e p).ct = s.ct := rfl
@[simp] theorem State.demandEngine_dr (s : State) (e : Domain) (p : DrPosting) : (s.demandEngine e p).dr = s.dr := rfl
@[simp] theorem State.demandEngine_engines (s : State) (e : Domain) (p : DrPosting) :
    (s.demandEngine e p).engines = s.engines := rfl
@[simp] theorem State.demandEngine_timebase (s : State) (e : Domain) (p : DrPosting) :
    (s.demandEngine e p).timebase = s.timebase := rfl
@[simp] theorem State.demandEngine_ticks (s : State) (e : Domain) (p : DrPosting) :
    (s.demandEngine e p).ticks = s.ticks := rfl
@[simp] theorem State.demandEngine_ports (s : State) (e : Domain) (p : DrPosting) :
    (s.demandEngine e p).ports = s.ports := rfl
@[simp] theorem State.demandEngine_lastServed (s : State) (e : Domain) (p : DrPosting) :
    (s.demandEngine e p).lastServed = s.lastServed := rfl
@[simp] theorem State.demandEngine_links (s : State) (e : Domain) (p : DrPosting) :
    (s.demandEngine e p).links = { s.links with drToEngine := modifyAt s.links.drToEngine e (· ++ [p]) } := rfl
@[simp] theorem State.demandEngine_pins (s : State) (e : Domain) (p : DrPosting) :
    (s.demandEngine e p).pins = s.pins := rfl
@[simp] theorem State.demandEngine_inReset (s : State) (e : Domain) (p : DrPosting) :
    (s.demandEngine e p).inReset = s.inReset := rfl
@[simp] theorem State.demandEngine_pending (s : State) (e : Domain) (p : DrPosting) :
    (s.demandEngine e p).pending = s.pending := rfl

/-! ### `alert`: an alert posting sets out -/

@[simp] theorem State.alert_ct (s : State) (p : Port) (j : Subject) (r : Reason) : (s.alert p j r).ct = s.ct := rfl
@[simp] theorem State.alert_dr (s : State) (p : Port) (j : Subject) (r : Reason) : (s.alert p j r).dr = s.dr := rfl
@[simp] theorem State.alert_engines (s : State) (p : Port) (j : Subject) (r : Reason) :
    (s.alert p j r).engines = s.engines := rfl
@[simp] theorem State.alert_timebase (s : State) (p : Port) (j : Subject) (r : Reason) :
    (s.alert p j r).timebase = s.timebase := rfl
@[simp] theorem State.alert_ticks (s : State) (p : Port) (j : Subject) (r : Reason) :
    (s.alert p j r).ticks = s.ticks := rfl
@[simp] theorem State.alert_ports (s : State) (p : Port) (j : Subject) (r : Reason) :
    (s.alert p j r).ports = s.ports := rfl
@[simp] theorem State.alert_lastServed (s : State) (p : Port) (j : Subject) (r : Reason) :
    (s.alert p j r).lastServed = s.lastServed := rfl
@[simp] theorem State.alert_links (s : State) (p : Port) (j : Subject) (r : Reason) :
    (s.alert p j r).links = { s.links with alerts := s.links.alerts ++ [{ port := p, subject := j, reason := r }] } := rfl
@[simp] theorem State.alert_pins (s : State) (p : Port) (j : Subject) (r : Reason) :
    (s.alert p j r).pins = s.pins := rfl
@[simp] theorem State.alert_inReset (s : State) (p : Port) (j : Subject) (r : Reason) :
    (s.alert p j r).inReset = s.inReset := rfl
@[simp] theorem State.alert_pending (s : State) (p : Port) (j : Subject) (r : Reason) :
    (s.alert p j r).pending = s.pending := rfl

/-! ### `dropCtNotice`: the oldest of a stream leaves it -/

@[simp] theorem State.dropCtNotice_ct (s : State) (e : Domain) : (s.dropCtNotice e).ct = s.ct := rfl
@[simp] theorem State.dropCtNotice_dr (s : State) (e : Domain) : (s.dropCtNotice e).dr = s.dr := rfl
@[simp] theorem State.dropCtNotice_engines (s : State) (e : Domain) : (s.dropCtNotice e).engines = s.engines := rfl
@[simp] theorem State.dropCtNotice_timebase (s : State) (e : Domain) : (s.dropCtNotice e).timebase = s.timebase := rfl
@[simp] theorem State.dropCtNotice_ticks (s : State) (e : Domain) : (s.dropCtNotice e).ticks = s.ticks := rfl
@[simp] theorem State.dropCtNotice_ports (s : State) (e : Domain) : (s.dropCtNotice e).ports = s.ports := rfl
@[simp] theorem State.dropCtNotice_lastServed (s : State) (e : Domain) :
    (s.dropCtNotice e).lastServed = s.lastServed := rfl
@[simp] theorem State.dropCtNotice_links (s : State) (e : Domain) :
    (s.dropCtNotice e).links = { s.links with toCt := modifyAt s.links.toCt e List.tail } := rfl
@[simp] theorem State.dropCtNotice_pins (s : State) (e : Domain) : (s.dropCtNotice e).pins = s.pins := rfl
@[simp] theorem State.dropCtNotice_inReset (s : State) (e : Domain) : (s.dropCtNotice e).inReset = s.inReset := rfl
@[simp] theorem State.dropCtNotice_pending (s : State) (e : Domain) : (s.dropCtNotice e).pending = s.pending := rfl

/-! ### `dropDrNotice`: the oldest of a stream leaves it -/

@[simp] theorem State.dropDrNotice_ct (s : State) (e : Domain) : (s.dropDrNotice e).ct = s.ct := rfl
@[simp] theorem State.dropDrNotice_dr (s : State) (e : Domain) : (s.dropDrNotice e).dr = s.dr := rfl
@[simp] theorem State.dropDrNotice_engines (s : State) (e : Domain) : (s.dropDrNotice e).engines = s.engines := rfl
@[simp] theorem State.dropDrNotice_timebase (s : State) (e : Domain) : (s.dropDrNotice e).timebase = s.timebase := rfl
@[simp] theorem State.dropDrNotice_ticks (s : State) (e : Domain) : (s.dropDrNotice e).ticks = s.ticks := rfl
@[simp] theorem State.dropDrNotice_ports (s : State) (e : Domain) : (s.dropDrNotice e).ports = s.ports := rfl
@[simp] theorem State.dropDrNotice_lastServed (s : State) (e : Domain) :
    (s.dropDrNotice e).lastServed = s.lastServed := rfl
@[simp] theorem State.dropDrNotice_links (s : State) (e : Domain) :
    (s.dropDrNotice e).links = { s.links with toDr := modifyAt s.links.toDr e List.tail } := rfl
@[simp] theorem State.dropDrNotice_pins (s : State) (e : Domain) : (s.dropDrNotice e).pins = s.pins := rfl
@[simp] theorem State.dropDrNotice_inReset (s : State) (e : Domain) : (s.dropDrNotice e).inReset = s.inReset := rfl
@[simp] theorem State.dropDrNotice_pending (s : State) (e : Domain) : (s.dropDrNotice e).pending = s.pending := rfl

/-! ### `dropCtPosting`: the oldest of a stream leaves it -/

@[simp] theorem State.dropCtPosting_ct (s : State) (e : Domain) : (s.dropCtPosting e).ct = s.ct := rfl
@[simp] theorem State.dropCtPosting_dr (s : State) (e : Domain) : (s.dropCtPosting e).dr = s.dr := rfl
@[simp] theorem State.dropCtPosting_engines (s : State) (e : Domain) : (s.dropCtPosting e).engines = s.engines := rfl
@[simp] theorem State.dropCtPosting_timebase (s : State) (e : Domain) :
    (s.dropCtPosting e).timebase = s.timebase := rfl
@[simp] theorem State.dropCtPosting_ticks (s : State) (e : Domain) : (s.dropCtPosting e).ticks = s.ticks := rfl
@[simp] theorem State.dropCtPosting_ports (s : State) (e : Domain) : (s.dropCtPosting e).ports = s.ports := rfl
@[simp] theorem State.dropCtPosting_lastServed (s : State) (e : Domain) :
    (s.dropCtPosting e).lastServed = s.lastServed := rfl
@[simp] theorem State.dropCtPosting_links (s : State) (e : Domain) :
    (s.dropCtPosting e).links = { s.links with ctToEngine := modifyAt s.links.ctToEngine e List.tail } := rfl
@[simp] theorem State.dropCtPosting_pins (s : State) (e : Domain) : (s.dropCtPosting e).pins = s.pins := rfl
@[simp] theorem State.dropCtPosting_inReset (s : State) (e : Domain) : (s.dropCtPosting e).inReset = s.inReset := rfl
@[simp] theorem State.dropCtPosting_pending (s : State) (e : Domain) : (s.dropCtPosting e).pending = s.pending := rfl

/-! ### `dropDrPosting`: the oldest of a stream leaves it -/

@[simp] theorem State.dropDrPosting_ct (s : State) (e : Domain) : (s.dropDrPosting e).ct = s.ct := rfl
@[simp] theorem State.dropDrPosting_dr (s : State) (e : Domain) : (s.dropDrPosting e).dr = s.dr := rfl
@[simp] theorem State.dropDrPosting_engines (s : State) (e : Domain) : (s.dropDrPosting e).engines = s.engines := rfl
@[simp] theorem State.dropDrPosting_timebase (s : State) (e : Domain) :
    (s.dropDrPosting e).timebase = s.timebase := rfl
@[simp] theorem State.dropDrPosting_ticks (s : State) (e : Domain) : (s.dropDrPosting e).ticks = s.ticks := rfl
@[simp] theorem State.dropDrPosting_ports (s : State) (e : Domain) : (s.dropDrPosting e).ports = s.ports := rfl
@[simp] theorem State.dropDrPosting_lastServed (s : State) (e : Domain) :
    (s.dropDrPosting e).lastServed = s.lastServed := rfl
@[simp] theorem State.dropDrPosting_links (s : State) (e : Domain) :
    (s.dropDrPosting e).links = { s.links with drToEngine := modifyAt s.links.drToEngine e List.tail } := rfl
@[simp] theorem State.dropDrPosting_pins (s : State) (e : Domain) : (s.dropDrPosting e).pins = s.pins := rfl
@[simp] theorem State.dropDrPosting_inReset (s : State) (e : Domain) : (s.dropDrPosting e).inReset = s.inReset := rfl
@[simp] theorem State.dropDrPosting_pending (s : State) (e : Domain) : (s.dropDrPosting e).pending = s.pending := rfl

/-! ### `countUnits`: µs units are counted -/

@[simp] theorem State.countUnits_ct (s : State) (d : Nat) : (s.countUnits d).ct = s.ct := rfl
@[simp] theorem State.countUnits_dr (s : State) (d : Nat) : (s.countUnits d).dr = s.dr := rfl
@[simp] theorem State.countUnits_ticks (s : State) (d : Nat) : (s.countUnits d).ticks = s.ticks := rfl
@[simp] theorem State.countUnits_ports (s : State) (d : Nat) : (s.countUnits d).ports = s.ports := rfl
@[simp] theorem State.countUnits_lastServed (s : State) (d : Nat) : (s.countUnits d).lastServed = s.lastServed := rfl
@[simp] theorem State.countUnits_links (s : State) (d : Nat) : (s.countUnits d).links = s.links := rfl
@[simp] theorem State.countUnits_pins (s : State) (d : Nat) : (s.countUnits d).pins = s.pins := rfl
@[simp] theorem State.countUnits_inReset (s : State) (d : Nat) : (s.countUnits d).inReset = s.inReset := rfl
@[simp] theorem State.countUnits_pending (s : State) (d : Nat) : (s.countUnits d).pending = s.pending := rfl
@[simp] theorem State.countUnits_timebase (s : State) (d : Nat) :
    (s.countUnits d).timebase = s.timebase.advance d := rfl
@[simp] theorem State.countUnits_dir (s : State) (d : Nat) :
    (s.countUnits d).engines.dir = s.engines.dir := rfl
@[simp] theorem State.countUnits_mods (s : State) (d : Nat) :
    (s.countUnits d).engines.mods = s.engines.mods := rfl
@[simp] theorem State.countUnits_doms (s : State) (d : Nat) :
    (s.countUnits d).engines.doms = s.engines.doms := rfl

/-! ### `relevel`: claimed levels are worked out -/

@[simp] theorem State.relevel_ct (s : State) :
    s.relevel.ct = { s.ct with claimed := Vector.ofFn s.ct.worked } := by rw [State.relevel]
@[simp] theorem State.relevel_dr (s : State) : s.relevel.dr = s.dr := by rw [State.relevel]
@[simp] theorem State.relevel_engines (s : State) : s.relevel.engines = s.engines := by rw [State.relevel]
@[simp] theorem State.relevel_timebase (s : State) : s.relevel.timebase = s.timebase := by rw [State.relevel]
@[simp] theorem State.relevel_ticks (s : State) : s.relevel.ticks = s.ticks := by rw [State.relevel]
@[simp] theorem State.relevel_ports (s : State) : s.relevel.ports = s.ports := by rw [State.relevel]
@[simp] theorem State.relevel_lastServed (s : State) : s.relevel.lastServed = s.lastServed := by rw [State.relevel]
@[simp] theorem State.relevel_links (s : State) : s.relevel.links = { s.links with
      claimedLevels := s.links.claimedLevels ++
        (allModules.filter fun m => s.ct.worked m ≠ s.ct.claimed[m]).map fun m => (m, s.ct.worked m) } := by rw [State.relevel]
@[simp] theorem State.relevel_pins (s : State) : s.relevel.pins = s.pins := by rw [State.relevel]
@[simp] theorem State.relevel_inReset (s : State) : s.relevel.inReset = s.inReset := by rw [State.relevel]
@[simp] theorem State.relevel_pending (s : State) : s.relevel.pending = s.pending := by rw [State.relevel]

/-! ### `takeRequest`: the arbiter takes a request -/

@[simp] theorem State.takeRequest_ct (s : State) (p : Port) : (s.takeRequest p).ct = s.ct := rfl
@[simp] theorem State.takeRequest_dr (s : State) (p : Port) : (s.takeRequest p).dr = s.dr := rfl
@[simp] theorem State.takeRequest_engines (s : State) (p : Port) : (s.takeRequest p).engines = s.engines := rfl
@[simp] theorem State.takeRequest_timebase (s : State) (p : Port) : (s.takeRequest p).timebase = s.timebase := rfl
@[simp] theorem State.takeRequest_ticks (s : State) (p : Port) : (s.takeRequest p).ticks = s.ticks := rfl
@[simp] theorem State.takeRequest_ports (s : State) (p : Port) :
    (s.takeRequest p).ports = modifyAt s.ports p fun q => { q with slot := none } := rfl
@[simp] theorem State.takeRequest_lastServed (s : State) (p : Port) : (s.takeRequest p).lastServed = p := rfl
@[simp] theorem State.takeRequest_links (s : State) (p : Port) : (s.takeRequest p).links = s.links := rfl
@[simp] theorem State.takeRequest_pins (s : State) (p : Port) : (s.takeRequest p).pins = s.pins := rfl
@[simp] theorem State.takeRequest_inReset (s : State) (p : Port) : (s.takeRequest p).inReset = s.inReset := rfl
@[simp] theorem State.takeRequest_pending (s : State) (p : Port) : (s.takeRequest p).pending = s.pending := rfl

/-! ### `writeAnswer`: an answer is written -/

@[simp] theorem State.writeAnswer_ct (s : State) (p : Port) (n : BitVec 4) (a : Answer) :
    (s.writeAnswer p n a).ct = s.ct := rfl
@[simp] theorem State.writeAnswer_dr (s : State) (p : Port) (n : BitVec 4) (a : Answer) :
    (s.writeAnswer p n a).dr = s.dr := rfl
@[simp] theorem State.writeAnswer_engines (s : State) (p : Port) (n : BitVec 4) (a : Answer) :
    (s.writeAnswer p n a).engines = s.engines := rfl
@[simp] theorem State.writeAnswer_timebase (s : State) (p : Port) (n : BitVec 4) (a : Answer) :
    (s.writeAnswer p n a).timebase = s.timebase := rfl
@[simp] theorem State.writeAnswer_ticks (s : State) (p : Port) (n : BitVec 4) (a : Answer) :
    (s.writeAnswer p n a).ticks = s.ticks := rfl
@[simp] theorem State.writeAnswer_ports (s : State) (p : Port) (n : BitVec 4) (a : Answer) :
    (s.writeAnswer p n a).ports = modifyAt s.ports p fun q =>
      { q with holder := a.bytes (s.echoFor p n), overrun := false, frameMark := false } := rfl
@[simp] theorem State.writeAnswer_lastServed (s : State) (p : Port) (n : BitVec 4) (a : Answer) :
    (s.writeAnswer p n a).lastServed = s.lastServed := rfl
@[simp] theorem State.writeAnswer_links (s : State) (p : Port) (n : BitVec 4) (a : Answer) :
    (s.writeAnswer p n a).links = s.links := rfl
@[simp] theorem State.writeAnswer_pins (s : State) (p : Port) (n : BitVec 4) (a : Answer) :
    (s.writeAnswer p n a).pins = s.pins := rfl
@[simp] theorem State.writeAnswer_inReset (s : State) (p : Port) (n : BitVec 4) (a : Answer) :
    (s.writeAnswer p n a).inReset = s.inReset := rfl
@[simp] theorem State.writeAnswer_pending (s : State) (p : Port) (n : BitVec 4) (a : Answer) :
    (s.writeAnswer p n a).pending = s.pending := rfl

/-! ### `writeWaiting`: WAITING is written -/

@[simp] theorem State.writeWaiting_ct (s : State) (p : Port) (n : BitVec 4) : (s.writeWaiting p n).ct = s.ct := rfl
@[simp] theorem State.writeWaiting_dr (s : State) (p : Port) (n : BitVec 4) : (s.writeWaiting p n).dr = s.dr := rfl
@[simp] theorem State.writeWaiting_engines (s : State) (p : Port) (n : BitVec 4) :
    (s.writeWaiting p n).engines = s.engines := rfl
@[simp] theorem State.writeWaiting_timebase (s : State) (p : Port) (n : BitVec 4) :
    (s.writeWaiting p n).timebase = s.timebase := rfl
@[simp] theorem State.writeWaiting_ticks (s : State) (p : Port) (n : BitVec 4) :
    (s.writeWaiting p n).ticks = s.ticks := rfl
@[simp] theorem State.writeWaiting_ports (s : State) (p : Port) (n : BitVec 4) :
    (s.writeWaiting p n).ports = modifyAt s.ports p fun q =>
      { q with holder := ({ status := .waiting } : Answer).bytes (s.echoFor p n) } := rfl
@[simp] theorem State.writeWaiting_lastServed (s : State) (p : Port) (n : BitVec 4) :
    (s.writeWaiting p n).lastServed = s.lastServed := rfl
@[simp] theorem State.writeWaiting_links (s : State) (p : Port) (n : BitVec 4) :
    (s.writeWaiting p n).links = s.links := rfl
@[simp] theorem State.writeWaiting_pins (s : State) (p : Port) (n : BitVec 4) :
    (s.writeWaiting p n).pins = s.pins := rfl
@[simp] theorem State.writeWaiting_inReset (s : State) (p : Port) (n : BitVec 4) :
    (s.writeWaiting p n).inReset = s.inReset := rfl
@[simp] theorem State.writeWaiting_pending (s : State) (p : Port) (n : BitVec 4) :
    (s.writeWaiting p n).pending = s.pending := rfl

/-! ### `Ct.onPort`: the items of one port change -/

@[simp] theorem Ct.onPort_slots (ct : Ct) (p : Port) (f : CtPort → CtPort) : (ct.onPort p f).slots = ct.slots := rfl
@[simp] theorem Ct.onPort_lists (ct : Ct) (p : Port) (f : CtPort → CtPort) : (ct.onPort p f).lists = ct.lists := rfl
@[simp] theorem Ct.onPort_claimed (ct : Ct) (p : Port) (f : CtPort → CtPort) :
    (ct.onPort p f).claimed = ct.claimed := rfl
@[simp] theorem Ct.onPort_views (ct : Ct) (p : Port) (f : CtPort → CtPort) : (ct.onPort p f).views = ct.views := rfl
@[simp] theorem Ct.onPort_restartMark (ct : Ct) (p : Port) (f : CtPort → CtPort) :
    (ct.onPort p f).restartMark = ct.restartMark := rfl
@[simp] theorem Ct.onPort_ports (ct : Ct) (p : Port) (f : CtPort → CtPort) :
    (ct.onPort p f).ports = modifyAt ct.ports p f := rfl
@[simp] theorem Ct.onPort_dir (ct : Ct) (p : Port) (f : CtPort → CtPort) : (ct.onPort p f).dir = ct.dir := rfl
@[simp] theorem Ct.onPort_divider (ct : Ct) (p : Port) (f : CtPort → CtPort) :
    (ct.onPort p f).divider = ct.divider := rfl

/-! ### `Ct.onClaim`: one claim changes -/

@[simp] theorem Ct.onClaim_slots (ct : Ct) (sl : Slot) (f : Claim → Claim) :
    (ct.onClaim sl f).slots = modifyAt ct.slots sl fun r => { r with claim := r.claim.map f } := rfl
@[simp] theorem Ct.onClaim_lists (ct : Ct) (sl : Slot) (f : Claim → Claim) : (ct.onClaim sl f).lists = ct.lists := rfl
@[simp] theorem Ct.onClaim_claimed (ct : Ct) (sl : Slot) (f : Claim → Claim) :
    (ct.onClaim sl f).claimed = ct.claimed := rfl
@[simp] theorem Ct.onClaim_views (ct : Ct) (sl : Slot) (f : Claim → Claim) : (ct.onClaim sl f).views = ct.views := rfl
@[simp] theorem Ct.onClaim_restartMark (ct : Ct) (sl : Slot) (f : Claim → Claim) :
    (ct.onClaim sl f).restartMark = ct.restartMark := rfl
@[simp] theorem Ct.onClaim_ports (ct : Ct) (sl : Slot) (f : Claim → Claim) : (ct.onClaim sl f).ports = ct.ports := rfl
@[simp] theorem Ct.onClaim_dir (ct : Ct) (sl : Slot) (f : Claim → Claim) : (ct.onClaim sl f).dir = ct.dir := rfl
@[simp] theorem Ct.onClaim_divider (ct : Ct) (sl : Slot) (f : Claim → Claim) :
    (ct.onClaim sl f).divider = ct.divider := rfl

/-! ### `Ct.mark`: a change set takes a slot -/

@[simp] theorem Ct.mark_slots (ct : Ct) (p : Port) (sl : Slot) : (ct.mark p sl).slots = ct.slots := rfl
@[simp] theorem Ct.mark_lists (ct : Ct) (p : Port) (sl : Slot) : (ct.mark p sl).lists = ct.lists := rfl
@[simp] theorem Ct.mark_claimed (ct : Ct) (p : Port) (sl : Slot) : (ct.mark p sl).claimed = ct.claimed := rfl
@[simp] theorem Ct.mark_views (ct : Ct) (p : Port) (sl : Slot) : (ct.mark p sl).views = ct.views := rfl
@[simp] theorem Ct.mark_restartMark (ct : Ct) (p : Port) (sl : Slot) :
    (ct.mark p sl).restartMark = ct.restartMark := rfl
@[simp] theorem Ct.mark_ports (ct : Ct) (p : Port) (sl : Slot) :
    (ct.mark p sl).ports = modifyAt ct.ports p fun q => { q with changes := insertSlot sl q.changes } := rfl
@[simp] theorem Ct.mark_dir (ct : Ct) (p : Port) (sl : Slot) : (ct.mark p sl).dir = ct.dir := rfl
@[simp] theorem Ct.mark_divider (ct : Ct) (p : Port) (sl : Slot) : (ct.mark p sl).divider = ct.divider := rfl

/-! ### `Ct.leaveList`: a slot leaves a claim list -/

@[simp] theorem Ct.leaveList_slots (ct : Ct) (m : Module) (sl : Slot) : (ct.leaveList m sl).slots = ct.slots := rfl
@[simp] theorem Ct.leaveList_lists (ct : Ct) (m : Module) (sl : Slot) :
    (ct.leaveList m sl).lists = modifyAt ct.lists m (·.filter (· ≠ sl)) := rfl
@[simp] theorem Ct.leaveList_claimed (ct : Ct) (m : Module) (sl : Slot) :
    (ct.leaveList m sl).claimed = ct.claimed := rfl
@[simp] theorem Ct.leaveList_views (ct : Ct) (m : Module) (sl : Slot) : (ct.leaveList m sl).views = ct.views := rfl
@[simp] theorem Ct.leaveList_restartMark (ct : Ct) (m : Module) (sl : Slot) :
    (ct.leaveList m sl).restartMark = ct.restartMark := rfl
@[simp] theorem Ct.leaveList_ports (ct : Ct) (m : Module) (sl : Slot) :
    (ct.leaveList m sl).ports = Vector.ofFn fun p =>
      { ct.ports[p] with cursor := retreat m sl (predecessor ct.lists[m] sl) ct.ports[p].cursor } := rfl
@[simp] theorem Ct.leaveList_dir (ct : Ct) (m : Module) (sl : Slot) : (ct.leaveList m sl).dir = ct.dir := rfl
@[simp] theorem Ct.leaveList_divider (ct : Ct) (m : Module) (sl : Slot) :
    (ct.leaveList m sl).divider = ct.divider := rfl

end Sys2Proof.Machine
end

