-- ==== Sys2Proof/Laws/Ops.lean ====
section
/-! SUPPORT. What each shared operation does, said once: table updates, operands, lists, alert sets, the request slots
and the folds over slots and modules. -/

namespace Sys2Proof.Machine

/-! ### Tables -/

theorem modifyAt_get {α : Type} {n : Nat} (v : Vector α n) (i j : Fin n) (f : α → α) :
    (modifyAt v i f)[j] = if j = i then f v[j] else v[j] := by
  unfold modifyAt
  by_cases h : j = i
  · subst h; simp
  · have : i.val ≠ j.val := fun e => h (Fin.ext e.symm)
    simp [this, h]

@[simp] theorem modifyAt_get_self {α : Type} {n : Nat} (v : Vector α n) (i : Fin n) (f : α → α) :
    (modifyAt v i f)[i] = f v[i] := by rw [modifyAt_get, if_pos rfl]

theorem modifyAt_get_ne {α : Type} {n : Nat} (v : Vector α n) {i j : Fin n} (f : α → α) (h : j ≠ i) :
    (modifyAt v i f)[j] = v[j] := by rw [modifyAt_get, if_neg h]

/-- The same with the index as a number, the form that `simp` brings it to. -/
@[simp] theorem modifyAt_getElem {α : Type} {n : Nat} (v : Vector α n) (i : Fin n) (f : α → α) (j : Nat) (h : j < n) :
    (modifyAt v i f)[j] = if j = i.val then f v[j] else v[j] := by
  have := modifyAt_get v i ⟨j, h⟩ f
  simpa [Fin.ext_iff] using this

theorem modifyAt_id {α : Type} {n : Nat} (v : Vector α n) (i : Fin n) : modifyAt v i id = v := by
  apply Vector.ext; intro j h; simp

/-- Dropping the head of one stream writes its rest. -/
theorem modifyAt_tail {α : Type} {n : Nat} (v : Vector (List α) n) (i : Fin n) {a : α} {l : List α}
    (h : v[i] = a :: l) : modifyAt v i List.tail = v.set i l := by
  unfold modifyAt; rw [h]; rfl

/-! ### Folds -/

/-- What every step of a fold keeps, the fold keeps. -/
theorem foldl_keeps {α β : Type} (P : β → Prop) (f : β → α → β) (hf : ∀ b a, P b → P (f b a)) (l : List α) (b : β)
    (hb : P b) : P (l.foldl f b) := by
  induction l generalizing b with
  | nil => exact hb
  | cons a l ih => exact ih _ (hf _ _ hb)

@[simp] theorem mem_allSlots (sl : Slot) : sl ∈ allSlots := List.mem_finRange sl

@[simp] theorem mem_allModules (m : Module) : m ∈ allModules := List.mem_finRange m

/-! ### Operands -/

theorem moduleOf_eq_some {b : Byte} {m : Module} : moduleOf b = some m ↔ b.toNat = m.val := by
  unfold moduleOf
  split
  · exact ⟨fun h => (by cases h; rfl), fun h => congrArg some (Fin.ext h)⟩
  · exact ⟨fun h => (by cases h), fun h => absurd m.isLt (by omega)⟩

theorem moduleOf_eq_none {b : Byte} : moduleOf b = none ↔ 32 ≤ b.toNat := by
  unfold moduleOf; split <;> simp <;> omega

theorem domainOf_eq_some {b : Byte} {d : Domain} : domainOf b = some d ↔ b.toNat = d.val := by
  unfold domainOf
  split
  · exact ⟨fun h => (by cases h; rfl), fun h => congrArg some (Fin.ext h)⟩
  · exact ⟨fun h => (by cases h), fun h => absurd d.isLt (by omega)⟩

theorem domainOf_eq_none {b : Byte} : domainOf b = none ↔ 4 ≤ b.toNat := by
  unfold domainOf; split <;> simp <;> omega

theorem portOf_eq_some {b : Byte} {p : Port} : portOf b = some p ↔ b.toNat = p.val := by
  unfold portOf
  split
  · exact ⟨fun h => (by cases h; rfl), fun h => congrArg some (Fin.ext h)⟩
  · exact ⟨fun h => (by cases h), fun h => absurd p.isLt (by omega)⟩

theorem slotOf_eq_some {b : Byte} {sl : Slot} : slotOf b = some sl ↔ b.toNat = sl.val := by
  unfold slotOf
  split
  · exact ⟨fun h => (by cases h; rfl), fun h => congrArg some (Fin.ext h)⟩
  · exact ⟨fun h => (by cases h), fun h => absurd sl.isLt (by omega)⟩

theorem swDomOf_eq_some {b : Byte} {x : SwDom} : swDomOf b = some x ↔ b.toNat = x.val + 1 := by
  unfold swDomOf
  split
  · constructor
    · intro h; cases h; simp; omega
    · intro h; exact congrArg some (Fin.ext (by simp; omega))
  · exact ⟨fun h => (by cases h), fun h => absurd x.isLt (by omega)⟩

theorem claimLevelOf_eq_some {b : Byte} {l : Level} : claimLevelOf b = some l ↔ b.toNat = l.val ∧ 1 ≤ l.val := by
  unfold claimLevelOf
  split
  · constructor
    · intro h; cases h; simp; omega
    · intro h; exact congrArg some (Fin.ext h.1)
  · exact ⟨fun h => (by cases h), fun h => absurd l.isLt (by omega)⟩

theorem switchedOf_domain (x : SwDom) : switchedOf x.domain = some x := by
  unfold switchedOf SwDom.domain
  have : 1 ≤ x.succ.val := by simp
  rw [dif_pos this]; exact congrArg some (Fin.ext (by simp))

theorem switchedOf_eq_some {d : Domain} {x : SwDom} : switchedOf d = some x ↔ x.domain = d := by
  constructor
  · unfold switchedOf
    split
    · intro h; cases h; exact Fin.ext (by simp [SwDom.domain]; omega)
    · intro h; cases h
  · rintro rfl; exact switchedOf_domain x

/-! ### Claims -/

theorem Ct.claimAt_onClaim (ct : Ct) (sl x : Slot) (f : Claim → Claim) :
    (ct.onClaim sl f).claimAt x = if x = sl then (ct.claimAt x).map f else ct.claimAt x := by
  unfold Ct.claimAt
  rw [Ct.onClaim_slots, modifyAt_get]
  split <;> rfl

@[simp] theorem Ct.claimAt_onPort (ct : Ct) (p : Port) (f : CtPort → CtPort) (x : Slot) :
    (ct.onPort p f).claimAt x = ct.claimAt x := rfl

@[simp] theorem Ct.claimAt_mark (ct : Ct) (p : Port) (sl x : Slot) : (ct.mark p sl).claimAt x = ct.claimAt x := rfl

@[simp] theorem Ct.claimAt_leaveList (ct : Ct) (m : Module) (sl x : Slot) :
    (ct.leaveList m sl).claimAt x = ct.claimAt x := rfl

/-- A change set takes a slot and loses none (R20). -/
theorem mem_insertSlot {sl x : Slot} {l : List Slot} : x ∈ insertSlot sl l ↔ x = sl ∨ x ∈ l := by
  induction l with
  | nil => simp [insertSlot]
  | cons a l ih =>
    unfold insertSlot
    split
    · simp
    · split
      · subst_vars; simp
      · simp [ih]; tauto

/-- A change set stays ascending (R20). -/
theorem insertSlot_ascending {sl : Slot} {l : List Slot} (h : l.Pairwise (· < ·)) :
    (insertSlot sl l).Pairwise (· < ·) := by
  induction l with
  | nil => simp [insertSlot]
  | cons a l ih =>
    rw [List.pairwise_cons] at h
    unfold insertSlot
    split
    · rename_i hlt
      refine List.pairwise_cons.2 ⟨fun b hb => ?_, List.pairwise_cons.2 h⟩
      rcases List.mem_cons.1 hb with rfl | hb
      · exact hlt
      · exact lt_trans hlt (h.1 b hb)
    · split
      · exact List.pairwise_cons.2 h
      · refine List.pairwise_cons.2 ⟨fun b hb => ?_, ih h.2⟩
        rcases mem_insertSlot.1 hb with rfl | hb
        · rename_i h1 h2; exact lt_of_le_of_ne (not_lt.1 h1) (Ne.symm h2)
        · exact h.1 b hb

/-- A handle resolves to the slot it numbers, with the generation it bears, and no other way (R4). -/
theorem Ct.resolve_eq_some {ct : Ct} {a g : Byte} {sl : Slot} {c : Claim} :
    ct.resolve a g = some (sl, c) ↔ a.toNat = sl.val ∧ ct.slots[sl].gen = g ∧ ct.claimAt sl = some c := by
  unfold Ct.resolve
  rw [Option.bind_eq_some_iff]
  constructor
  · rintro ⟨x, hx, h⟩
    split at h
    · rename_i hg
      obtain ⟨d, hd, he⟩ := Option.map_eq_some_iff.1 h
      cases he
      exact ⟨slotOf_eq_some.1 hx, hg, hd⟩
    · cases h
  · rintro ⟨ha, hg, hc⟩
    exact ⟨sl, slotOf_eq_some.2 ha, by rw [if_pos hg, hc]; rfl⟩

/-- The lowest-numbered FREE slot is FREE (R5). -/
theorem Ct.freeSlot?_free {ct : Ct} {sl : Slot} (h : ct.freeSlot? = some sl) : ct.claimAt sl = none := by
  have := List.find?_some h
  simpa using this

/-- There is no FREE slot just where every slot holds a claim (R5). -/
theorem Ct.freeSlot?_eq_none {ct : Ct} : ct.freeSlot? = none ↔ ∀ sl : Slot, ct.claimAt sl ≠ none := by
  unfold Ct.freeSlot?
  rw [List.find?_eq_none]
  constructor
  · intro h sl; have := h sl (mem_allSlots sl); simpa using this
  · intro h sl _; simpa using h sl

/-! ### Device reset, and the request slots -/

theorem State.isRunning_iff {s : State} : s.isRunning = true ↔ s.inReset = false ∧ s.pins.refclk = true := by
  simp [State.isRunning]

theorem State.awake_inReset {s : State} (f : State → State) (h : s.inReset = true) : s.awake f = s := by
  simp [State.awake, State.isRunning, h]

/-- While REFCLK stands still no block takes an event (R45). -/
theorem State.awake_standing {s : State} (f : State → State) (h : s.pins.refclk = false) : s.awake f = s := by
  simp [State.awake, State.isRunning, h]

theorem State.awake_running {s : State} (f : State → State) (h : s.inReset = false ∧ s.pins.refclk = true) :
    s.awake f = f s := by
  rw [State.awake, if_pos (State.isRunning_iff.2 h)]

/-- What a function keeps, it keeps under `awake`. -/
theorem State.awake_keeps (P : State → Prop) {s : State} (f : State → State) (hs : P s)
    (hf : s.inReset = false ∧ s.pins.refclk = true → P (f s)) : P (s.awake f) := by
  unfold State.awake
  split
  · exact hf (State.isRunning_iff.1 ‹_›)
  · exact hs

/-- The next request stands in its port's slot (R161). -/
theorem State.nextRequest_slot {s : State} {p : Port} {r : Request} (h : s.nextRequest = some (p, r)) :
    s.ports[p].slot = some r := by
  obtain ⟨q, _, hq⟩ := List.exists_of_findSome?_eq_some h
  obtain ⟨x, hx, he⟩ := Option.map_eq_some_iff.1 hq
  cases he
  exact hx

/-- A request whose code is accepted is taken, carried out and answered in one event (R26, R155). -/
theorem State.serve_accepted {s : State} {accepts : Byte → Bool} {body : Port → Request → State → State × Answer}
    {p : Port} {r : Request} (hr : s.inReset = false ∧ s.pins.refclk = true) (hn : s.nextRequest = some (p, r)) (ha : accepts r.code = true) :
    s.serve accepts body =
      (body p r (s.takeRequest p)).1.writeAnswer p r.sequence (body p r (s.takeRequest p)).2 := by
  rw [State.serve, State.awake_running _ hr, hn]
  simp only [ha, if_true]

/-- Without an accepted request nothing is served. -/
theorem State.serve_nothing {s : State} {accepts : Byte → Bool} {body : Port → Request → State → State × Answer}
    (h : ∀ p r, s.nextRequest = some (p, r) → accepts r.code = false) : s.serve accepts body = s := by
  refine State.awake_keeps (· = s) _ rfl fun _ => ?_
  cases hn : s.nextRequest with
  | none => rfl
  | some x => obtain ⟨p, r⟩ := x; simp [h p r hn]

/-- What every body keeps, serving keeps: to show it, take the request, carry the body out, write the answer. -/
theorem State.serve_keeps (P : State → Prop) {s : State} {accepts : Byte → Bool}
    {body : Port → Request → State → State × Answer} (hs : P s)
    (hb : ∀ p r, s.inReset = false ∧ s.pins.refclk = true → s.nextRequest = some (p, r) → accepts r.code = true →
      P ((body p r (s.takeRequest p)).1.writeAnswer p r.sequence (body p r (s.takeRequest p)).2)) :
    P (s.serve accepts body) := by
  refine State.awake_keeps P _ hs fun hr => ?_
  cases hn : s.nextRequest with
  | none => exact hs
  | some x =>
    obtain ⟨p, r⟩ := x
    by_cases ha : accepts r.code = true
    · simp only [ha, if_true]; exact hb p r hr hn ha
    · simp only [ha]; exact hs

/-- A control-port command is refused to every other port (R158). -/
theorem controlOnly_refused {body : Request → State → State × Answer} {p : Port} (h : p ≠ 0) (r : Request) (s : State) :
    controlOnly body p r s = (s, .refused .notPermitted) := by rw [controlOnly, if_neg h]

@[simp] theorem controlOnly_zero (body : Request → State → State × Answer) (r : Request) (s : State) :
    controlOnly body 0 r s = body r s := rfl

/-! ### Time -/

/-- Time that has passed at the timebase (R46). -/
@[simp] theorem Timebase.advance_elapsed (t : Timebase) (d : Nat) : (t.advance d).elapsed = t.elapsed + d := by
  simp only [Timebase.advance, Timebase.elapsed]
  exact Nat.div_add_mod' _ _

@[simp] theorem Timebase.advance_periodLength (t : Timebase) (d : Nat) : (t.advance d).periodLength = t.periodLength := rfl

@[simp] theorem Timebase.advance_tickDiv (t : Timebase) (d : Nat) : (t.advance d).tickDiv = t.tickDiv := rfl

theorem Timebase.advance_usCount_lt (t : Timebase) (d : Nat) : (t.advance d).usCount < Config.quarterUs :=
  Nat.mod_lt _ (by decide)

/-- Each step timer that runs counts the units that pass (R45). -/
theorem State.countUnits_rec (s : State) (d : Nat) (e : Domain) :
    (s.countUnits d).engines.recs[e] =
      { s.engines.recs[e] with timer := s.engines.recs[e].timer.map (· - d) } := by
  simp [State.countUnits, State.onEngines, State.onTimebase]

end Sys2Proof.Machine
end

