-- ==== Sys2Proof/Laws/Claims.lean ====
section
/-! SUPPORT. The claim table's operations: what each leaves in every slot, and that an operation which leaves a claim
list moves nothing else. -/

namespace Sys2Proof.Machine

/-! ### One slot -/

/-- A slot that is freed takes the next generation; every other slot is as it was (R16). -/
theorem Ct.freeSlot_slots (ct : Ct) (sl x : Slot) :
    (ct.freeSlot sl).slots[x] =
      if x = sl ∧ (ct.claimAt sl).isSome = true then { gen := ct.slots[x].gen + 1, claim := none }
      else ct.slots[x] := by
  unfold Ct.freeSlot
  cases h : ct.claimAt sl with
  | none => simp
  | some c =>
    dsimp only
    have hs : (if c.state.live = true then ct.leaveList c.module sl else ct).slots = ct.slots := by split <;> rfl
    rw [Ct.onPort_slots]
    dsimp only
    rw [modifyAt_get, hs]
    simp

/-- A slot that holds no claim is not freed again. -/
theorem Ct.freeSlot_free {ct : Ct} {sl : Slot} (h : ct.claimAt sl = none) : ct.freeSlot sl = ct := by
  unfold Ct.freeSlot; rw [h]

/-- A dying claim keeps its slot's generation and every other slot (R15). -/
theorem Ct.die_slots (ct : Ct) (sl : Slot) (st : ClaimState) (marked : Bool) (x : Slot) :
    (ct.die sl st marked).slots[x] =
      if x = sl then
        { ct.slots[x] with claim := ct.slots[x].claim.map fun c => { c with state := st, leaseLeft := none } }
      else ct.slots[x] := by
  unfold Ct.die
  cases h : ct.claimAt sl with
  | none =>
    have : ct.slots[sl].claim = none := h
    dsimp only
    split
    · subst_vars
      rw [this, Option.map_none, ← this]
    · rfl
  | some c =>
    dsimp only
    split <;> simp only [Ct.mark_slots, Ct.onClaim_slots, Ct.leaveList_slots, modifyAt_get]

/-- A claim that dies leaves its module's list, and only that list (R7, R15). -/
theorem Ct.die_lists {ct : Ct} {sl : Slot} {c : Claim} (h : ct.claimAt sl = some c) (st : ClaimState) (marked : Bool) :
    (ct.die sl st marked).lists = modifyAt ct.lists c.module (·.filter (· ≠ sl)) := by
  unfold Ct.die
  rw [h]
  dsimp only
  split <;> rfl

/-! ### What no operation but a freeing changes -/

theorem Ct.settleClaim_gen (x : Level) (g : Byte) (ct : Ct) (sl k : Slot) :
    (Ct.settleClaim x g ct sl).slots[k].gen = ct.slots[k].gen := by
  unfold Ct.settleClaim
  split
  · rfl
  · split
    · simp only [Ct.mark_slots, Ct.onClaim_slots, modifyAt_get]; split <;> rfl
    · split
      · simp only [Ct.mark_slots, Ct.onClaim_slots, modifyAt_get]; split <;> rfl
      · rfl

theorem Ct.unsettleClaim_gen (ct : Ct) (sl k : Slot) : (ct.unsettleClaim sl).slots[k].gen = ct.slots[k].gen := by
  unfold Ct.unsettleClaim
  split
  · rfl
  · split
    · simp only [Ct.mark_slots, Ct.onClaim_slots, modifyAt_get]; split <;> rfl
    · rfl

theorem Ct.die_gen (ct : Ct) (sl : Slot) (st : ClaimState) (marked : Bool) (k : Slot) :
    (ct.die sl st marked).slots[k].gen = ct.slots[k].gen := by
  rw [Ct.die_slots]; split <;> rfl

theorem Ct.countDown_gen (ct : Ct) (sl k : Slot) : (ct.countDown sl).slots[k].gen = ct.slots[k].gen := by
  unfold Ct.countDown
  split
  · rfl
  · split
    · rfl
    · split
      · rfl
      · split
        · exact Ct.die_gen ..
        · simp only [Ct.onClaim_slots, modifyAt_get]; split <;> rfl

/-! ### Folds over slots -/

/-- Freeing a chosen set of slots frees just those (R17). -/
theorem Ct.freeAll_slots (ct : Ct) (which : Claim → Bool) (x : Slot) :
    (ct.freeAll which).slots[x] =
      if (ct.claimAt x).any which then { gen := ct.slots[x].gen + 1, claim := none } else ct.slots[x] := by
  have key : ∀ (l : List Slot) (c : Ct), l.Nodup →
      (l.foldl (fun ct sl => if (ct.claimAt sl).any which then ct.freeSlot sl else ct) c).slots[x] =
        if x ∈ l ∧ (c.claimAt x).any which = true then { gen := c.slots[x].gen + 1, claim := none }
        else c.slots[x] := by
    intro l
    induction l with
    | nil => intro c _; simp
    | cons a l ih =>
      intro c hl
      rw [List.nodup_cons] at hl
      rw [List.foldl_cons, ih _ hl.2]
      by_cases ha : (c.claimAt a).any which = true
      · rw [if_pos ha]
        have hs : (c.claimAt a).isSome = true := by
          cases hc : c.claimAt a with
          | none => rw [hc] at ha; cases ha
          | some _ => rfl
        by_cases hx : x = a
        · subst hx
          have hf : (c.freeSlot x).slots[x] = { gen := c.slots[x].gen + 1, claim := none } := by
            rw [Ct.freeSlot_slots, if_pos ⟨rfl, hs⟩]
          rw [if_neg fun h => hl.1 h.1, hf, if_pos ⟨by simp, ha⟩]
        · have h1 : (c.freeSlot a).slots[x] = c.slots[x] := by
            rw [Ct.freeSlot_slots, if_neg fun h => hx h.1]
          have h2 : (c.freeSlot a).claimAt x = c.claimAt x := congrArg SlotRec.claim h1
          rw [h1, h2]
          simp [hx]
      · rw [if_neg ha]
        by_cases hx : x = a
        · subst hx
          simp [ha]
        · simp [hx]
  have h := key allSlots ct (List.nodup_finRange 128)
  unfold Ct.freeAll
  rw [h]
  simp

/-- The claim following `a` in `before ++ a :: rest` is the head of `rest`, where `a` does not stand before (R23). -/
theorem successor_split {before rest : List Slot} {a : Slot} (h : a ∉ before) :
    successor (before ++ a :: rest) a = rest.head? := by
  induction before with
  | nil => simp [successor]
  | cons b l ih =>
    rw [List.mem_cons, not_or] at h
    have hb : b ≠ a := Ne.symm h.1
    simp [successor, hb, ih h.2]

/-- A claimed level is at least every level of its list, and no higher than a bound of them all (R8). -/
theorem le_highest {ls : List Level} {l : Level} (h : l ∈ ls) : l ≤ highest ls := by
  induction ls with
  | nil => cases h
  | cons a ls ih =>
    show l ≤ max a (highest ls)
    rcases List.mem_cons.1 h with rfl | h
    · exact le_max_left ..
    · exact le_trans (ih h) (le_max_right ..)

theorem highest_le {ls : List Level} {l : Level} (h : ∀ x ∈ ls, x ≤ l) : highest ls ≤ l := by
  induction ls with
  | nil => exact Fin.zero_le l
  | cons a ls ih => exact max_le (h a (by simp)) (ih fun x hx => h x (by simp [hx]))

end Sys2Proof.Machine
end

