-- ==== Sys2Proof/Laws/Engine.lean ====
section
/-! SUPPORT. The domain engines' operations: each touches the engines' own records and the streams in flight only, and
what every move of an engine keeps, the end of its event keeps. -/

namespace Sys2Proof.Machine

/-- Nothing outside the engines changed but the streams in flight, and the engines' directory is as it was. -/
abbrev EnginesOnly (s t : State) : Prop :=
  OnlyEngines s t ∧ t.timebase = s.timebase ∧ t.engines.dir = s.engines.dir

theorem EnginesOnly.refl (s : State) : EnginesOnly s s := by simp [EnginesOnly, OnlyEngines]

theorem EnginesOnly.trans {s t u : State} (h : EnginesOnly s t) (k : EnginesOnly t u) : EnginesOnly s u := by
  obtain ⟨⟨h1, h2, h3, h4, h5, h6, h7, h8⟩, h9, h10⟩ := h
  obtain ⟨⟨k1, k2, k3, k4, k5, k6, k7, k8⟩, k9, k10⟩ := k
  exact ⟨⟨k1.trans h1, k2.trans h2, k3.trans h3, k4.trans h4, k5.trans h5, k6.trans h6, k7.trans h7, k8.trans h8⟩,
    k9.trans h9, k10.trans h10⟩

/-! ### The updates -/

theorem enginesOnly_onMod (s : State) (m : Module) (f : ModRec → ModRec) : EnginesOnly s (s.onMod m f) := by
  simp [EnginesOnly, OnlyEngines]

theorem enginesOnly_onRec (s : State) (e : Domain) (f : EngineRec → EngineRec) : EnginesOnly s (s.onRec e f) := by
  simp [EnginesOnly, OnlyEngines]

theorem enginesOnly_onDom (s : State) (x : SwDom) (f : DomRec → DomRec) : EnginesOnly s (s.onDom x f) := by
  simp [EnginesOnly, OnlyEngines]

theorem enginesOnly_noticeCt (s : State) (e : Domain) (n : CtNotice) : EnginesOnly s (s.noticeCt e n) := by
  simp [EnginesOnly, OnlyEngines]

theorem enginesOnly_noticeDr (s : State) (e : Domain) (n : DrNotice) : EnginesOnly s (s.noticeDr e n) := by
  simp [EnginesOnly, OnlyEngines]

theorem enginesOnly_alert (s : State) (p : Port) (j : Subject) (r : Reason) : EnginesOnly s (s.alert p j r) := by
  simp [EnginesOnly, OnlyEngines]

theorem enginesOnly_dropCtPosting (s : State) (e : Domain) : EnginesOnly s (s.dropCtPosting e) := by
  simp [EnginesOnly, OnlyEngines]

theorem enginesOnly_dropDrPosting (s : State) (e : Domain) : EnginesOnly s (s.dropDrPosting e) := by
  simp [EnginesOnly, OnlyEngines]

/-! ### Steps and paths -/

theorem enginesOnly_noticeChange (s : State) (e : Domain) (m : Module) (old new : ModRec) :
    EnginesOnly s (s.noticeChange e m old new) := by
  unfold State.noticeChange
  dsimp only
  have h : EnginesOnly s (if old.level = new.level then s else s.noticeCt e (.level m new.level new.gen)) := by
    split
    · exact .refl s
    · exact enginesOnly_noticeCt ..
  split
  · exact h
  · exact h.trans (enginesOnly_noticeDr ..)

theorem enginesOnly_appendEntry (s : State) (e : Domain) (en : Entry) : EnginesOnly s (s.appendEntry e en) :=
  enginesOnly_onRec ..

theorem enginesOnly_compareWanted (s : State) (e : Domain) (m : Module) : EnginesOnly s (s.compareWanted e m) := by
  unfold State.compareWanted
  dsimp only
  split
  · exact .refl s
  · exact (enginesOnly_appendEntry ..).trans (enginesOnly_onMod ..)

theorem enginesOnly_beginStep (s : State) (e : Domain) (m : Module) (st : LineStep) :
    EnginesOnly s (s.beginStep e m st) := (enginesOnly_onMod ..).trans (enginesOnly_onRec ..)

theorem enginesOnly_completeStep (s : State) (e : Domain) (m : Module) (st : LineStep) (t : Target) (last : Bool) :
    EnginesOnly s (s.completeStep e m st t last) :=
  ((enginesOnly_onRec ..).trans (enginesOnly_onMod ..)).trans (enginesOnly_noticeChange ..)

theorem enginesOnly_endTransition (s : State) (e : Domain) (m : Module) (restart : Option Port) :
    EnginesOnly s (s.endTransition e m restart) := by
  cases restart with
  | none => exact ((enginesOnly_onMod ..).trans (enginesOnly_onRec ..)).trans (enginesOnly_compareWanted ..)
  | some p =>
    exact ((((enginesOnly_noticeCt ..).trans (enginesOnly_alert ..)).trans (enginesOnly_onMod ..)).trans
      (enginesOnly_onRec ..)).trans (enginesOnly_compareWanted ..)

theorem enginesOnly_runSteps (e : Domain) (m : Module) (t : Target) (restart : Option Port) (steps : List LineStep)
    (s : State) : EnginesOnly s (State.runSteps e m t restart steps s) := by
  induction steps generalizing s with
  | nil => exact enginesOnly_endTransition ..
  | cons st rest ih =>
    unfold State.runSteps
    dsimp only
    split
    · exact ((enginesOnly_beginStep ..).trans (enginesOnly_completeStep ..)).trans (ih _)
    · exact (enginesOnly_beginStep ..).trans (enginesOnly_onRec ..)

theorem enginesOnly_finishStep (s : State) (e : Domain) (t : Transition) : EnginesOnly s (s.finishStep e t) := by
  unfold State.finishStep
  split
  · exact enginesOnly_endTransition ..
  · exact (enginesOnly_completeStep ..).trans (enginesOnly_runSteps ..)

theorem enginesOnly_startPath (s : State) (e : Domain) (m : Module) (t : Target) (restart : Option Port)
    (steps : List LineStep) : EnginesOnly s (s.startPath e m t restart steps) :=
  (enginesOnly_onMod ..).trans (enginesOnly_runSteps ..)

/-! ### Entries, restarts, ramps -/

theorem enginesOnly_failRestart (s : State) (e : Domain) (m : Module) (p : Port) :
    EnginesOnly s (s.failRestart e m p) := (enginesOnly_noticeCt ..).trans (enginesOnly_alert ..)

theorem enginesOnly_takeRestart (s : State) (e : Domain) (m : Module) (t : Target) (p : Port) :
    EnginesOnly s (s.takeRestart e m t p) := by
  unfold State.takeRestart
  split
  · exact (enginesOnly_noticeCt ..).trans (enginesOnly_startPath ..)
  · dsimp only
    split
    · exact enginesOnly_failRestart ..
    · exact (enginesOnly_failRestart ..).trans (enginesOnly_appendEntry ..)

theorem enginesOnly_flagOnly (s : State) (e : Domain) (m : Module) (t : Target) : EnginesOnly s (s.flagOnly e m t) :=
  ((enginesOnly_onMod ..).trans (enginesOnly_noticeChange ..)).trans (enginesOnly_compareWanted ..)

theorem enginesOnly_leaveLinger (s : State) (e : Domain) : EnginesOnly s (s.leaveLinger e) := by
  unfold State.leaveLinger
  split
  · exact .refl s
  · exact enginesOnly_onDom ..

theorem enginesOnly_takeEntry (s : State) (e : Domain) (en : Entry) : EnginesOnly s (s.takeEntry e en) := by
  unfold State.takeEntry
  dsimp only
  split
  · exact (enginesOnly_onRec ..).trans (enginesOnly_takeRestart ..)
  · split
    · exact ((enginesOnly_onRec ..).trans (enginesOnly_leaveLinger ..)).trans (enginesOnly_startPath ..)
    · exact (enginesOnly_onRec ..).trans (enginesOnly_startPath ..)
    · exact (enginesOnly_onRec ..).trans (enginesOnly_flagOnly ..)
    · exact enginesOnly_onRec ..

theorem enginesOnly_completeRampUp (s : State) (x : SwDom) : EnginesOnly s (s.completeRampUp x) :=
  (enginesOnly_onDom ..).trans (enginesOnly_onRec ..)

theorem enginesOnly_completeRampDown (s : State) (x : SwDom) : EnginesOnly s (s.completeRampDown x) :=
  (enginesOnly_onDom ..).trans (enginesOnly_onRec ..)

theorem enginesOnly_beginRampUp (s : State) (x : SwDom) : EnginesOnly s (s.beginRampUp x) := by
  unfold State.beginRampUp
  dsimp only
  split
  · exact ((enginesOnly_onDom ..).trans (enginesOnly_onRec ..)).trans (enginesOnly_completeRampUp ..)
  · exact (enginesOnly_onDom ..).trans (enginesOnly_onRec ..)

theorem enginesOnly_beginRampDown (s : State) (x : SwDom) : EnginesOnly s (s.beginRampDown x) := by
  unfold State.beginRampDown
  dsimp only
  split
  · exact (enginesOnly_onDom ..).trans (enginesOnly_onRec ..)
  · exact ((enginesOnly_onDom ..).trans (enginesOnly_onRec ..)).trans (enginesOnly_completeRampDown ..)

theorem enginesOnly_leaveOn (s : State) (x : SwDom) : EnginesOnly s (s.leaveOn x) := by
  unfold State.leaveOn
  dsimp only
  split
  · exact enginesOnly_beginRampDown ..
  · exact enginesOnly_onDom ..

/-! ### The end of an engine's event -/

/-- Every way an engine moves: it has no work in flight, and a ramp is due, or the oldest eligible entry is taken, or an
idle domain leaves ON (R86, R89, R101, R103). -/
theorem State.engineMove_cases {s t : State} {e : Domain} (h : s.engineMove e = some t) :
    s.engines.recs[e].work = .idle ∧
      ((∃ x, switchedOf e = some x ∧ s.rampUpDue x = true ∧ t = s.beginRampUp x) ∨
        (∃ en ∈ s.engines.recs[e].queue, s.eligible e en = true ∧ t = s.takeEntry e en) ∨
        (∃ x, switchedOf e = some x ∧ s.idleDue x = true ∧ t = s.leaveOn x)) := by
  unfold State.engineMove at h
  split at h
  · cases h
  · rename_i hw
    refine ⟨not_not.1 hw, ?_⟩
    split at h
    · rename_i hd
      obtain ⟨x, hx, ht⟩ := Option.map_eq_some_iff.1 h
      rw [hx] at hd
      exact .inl ⟨x, hx, hd, ht.symm⟩
    · split at h
      · rename_i en hf
        cases h
        exact .inr (.inl ⟨en, List.mem_of_find?_eq_some hf, List.find?_some hf, rfl⟩)
      · split at h
        · rename_i hd
          obtain ⟨x, hx, ht⟩ := Option.map_eq_some_iff.1 h
          rw [hx] at hd
          exact .inr (.inr ⟨x, hx, hd, ht.symm⟩)
        · cases h

theorem enginesOnly_engineMove {s t : State} {e : Domain} (h : s.engineMove e = some t) : EnginesOnly s t := by
  obtain ⟨_, ⟨x, _, _, rfl⟩ | ⟨en, _, _, rfl⟩ | ⟨x, _, _, rfl⟩⟩ := State.engineMove_cases h
  · exact enginesOnly_beginRampUp ..
  · exact enginesOnly_takeEntry ..
  · exact enginesOnly_leaveOn ..

/-- What every move of an engine keeps, the end of its event keeps. -/
theorem State.settleEngine_keeps (P : State → Prop) (e : Domain) (s : State)
    (hm : ∀ u v : State, P u → u.engineMove e = some v → P v) (hs : P s) : P (s.settleEngine e) := by
  suffices h : ∀ (fuel : Nat) (u : State), P u → P (State.engineMoves e fuel u) from h _ s hs
  intro fuel
  induction fuel with
  | zero => exact fun u hu => hu
  | succ n ih =>
    intro u hu
    unfold State.engineMoves
    split
    · exact hu
    · rename_i v hv; exact ih v (hm u v hu hv)

/-- An engine with work in flight, or with nothing to do, is left as it is (R86). -/
theorem State.settleEngine_still {s : State} {e : Domain} (h : s.engineMove e = none) : s.settleEngine e = s := by
  unfold State.settleEngine State.engineMoves
  rw [h]

/-- An engine with work in flight does nothing more at the end of an event (R86). -/
theorem State.engineMove_busy {s : State} {e : Domain} (h : s.engines.recs[e].work ≠ .idle) :
    s.engineMove e = none := by rw [State.engineMove, if_pos h]

theorem enginesOnly_settleEngine (s : State) (e : Domain) : EnginesOnly s (s.settleEngine e) :=
  State.settleEngine_keeps (EnginesOnly s) e s (fun _ _ hu h => hu.trans (enginesOnly_engineMove h)) (.refl s)

/-! ### Faults and their release -/

theorem enginesOnly_alertFault (s : State) (m : Module) : EnginesOnly s (s.alertFault m) := by
  unfold State.alertFault
  dsimp only
  split
  · exact enginesOnly_alert ..
  · exact (enginesOnly_alert ..).trans (enginesOnly_alert ..)

theorem enginesOnly_faultModule (s : State) (e : Domain) (m : Module) (c : ModCause) :
    EnginesOnly s (s.faultModule e m c) := by
  have h (f : EngineRec → EngineRec) :=
    (((enginesOnly_onMod s m (·.faulted c)).trans (enginesOnly_onRec _ e f)).trans
      (enginesOnly_noticeCt _ e (.fault m c))).trans ((enginesOnly_noticeDr _ e (.fault m c)).trans
        (enginesOnly_alertFault _ m))
  unfold State.faultModule
  dsimp only
  split
  · exact h _
  · exact (h _).trans (enginesOnly_failRestart ..)

theorem enginesOnly_faultDomain (s : State) (x : SwDom) (c : DomCause) : EnginesOnly s (s.faultDomain x c) := by
  unfold State.faultDomain
  dsimp only
  refine ((foldl_keeps (EnginesOnly s) _ (fun u m hu => ?_) _ _
    ((enginesOnly_onDom ..).trans (enginesOnly_onRec ..))).trans (enginesOnly_onRec ..)).trans (enginesOnly_alert ..)
  split
  · exact hu.trans (enginesOnly_faultModule ..)
  · exact hu

theorem enginesOnly_releaseModule (s : State) (e : Domain) (m : Module) : EnginesOnly s (s.releaseModule e m) := by
  unfold State.releaseModule
  split
  · exact enginesOnly_onMod ..
  · exact ((enginesOnly_onMod ..).trans (enginesOnly_noticeCt ..)).trans (enginesOnly_noticeDr ..)

/-! ### Postings taken at an engine -/

theorem enginesOnly_queueTarget (s : State) (e : Domain) (m : Module) (t : Target) :
    EnginesOnly s (s.queueTarget e m t) := by
  unfold State.queueTarget
  dsimp only
  split
  · exact enginesOnly_onRec ..
  · split
    · exact .refl s
    · exact enginesOnly_appendEntry ..

theorem enginesOnly_takeTarget (s : State) (e : Domain) (m : Module) (t : Target) :
    EnginesOnly s (s.takeTarget e m t) := by
  unfold State.takeTarget
  split
  · dsimp only
    split
    · exact enginesOnly_onMod ..
    · exact (enginesOnly_onMod ..).trans (enginesOnly_queueTarget ..)
  · exact .refl s

theorem enginesOnly_takeRestartPosting (s : State) (e : Domain) (m : Module) (p : Port) :
    EnginesOnly s (s.takeRestartPosting e m p) := by
  unfold State.takeRestartPosting
  split
  · split
    · exact enginesOnly_failRestart ..
    · split
      · exact enginesOnly_onMod ..
      · split
        · exact enginesOnly_onRec ..
        · exact enginesOnly_appendEntry ..
  · exact .refl s

end Sys2Proof.Machine
end

