-- ==== Sys2Proof/Laws/Resolver.lean ====
section
/-! SUPPORT. The demand resolver's operations: what posting does to the streams, what the end of an event there does,
and how a keyed stream gives its oldest element. -/

namespace Sys2Proof.Machine

/-! ### Posting -/

/-- Posting touches the streams to the engines only. -/
theorem State.postAll_frame (s : State) (ps : List (Domain × DrPosting)) :
    s.postAll ps = { s with links := { s.links with drToEngine := (s.postAll ps).links.drToEngine } } := by
  refine foldl_keeps (fun t : State => t = { s with links := { s.links with drToEngine := t.links.drToEngine } })
    (fun t p => t.demandEngine p.1 p.2) (fun t p ht => ?_) ps s rfl
  rw [ht]
  rfl

/-- Each engine receives its postings in order, behind those it had (R66). -/
theorem State.postAll_drToEngine (s : State) (ps : List (Domain × DrPosting)) (e : Domain) :
    (s.postAll ps).links.drToEngine[e] =
      s.links.drToEngine[e] ++ (ps.filter fun p => decide (p.1 = e)).map (·.2) := by
  induction ps generalizing s with
  | nil => simp [State.postAll]
  | cons p ps ih =>
    have h : s.postAll (p :: ps) = (s.demandEngine p.1 p.2).postAll ps := rfl
    rw [h, ih]
    have hg : (s.demandEngine p.1 p.2).links.drToEngine[e] =
        if e = p.1 then s.links.drToEngine[e] ++ [p.2] else s.links.drToEngine[e] :=
      modifyAt_get ..
    rw [hg]
    by_cases he : e = p.1
    · subst he; simp
    · simp [he, Ne.symm he]

/-! ### The end of an event at the demand resolver -/

/-- The end of an event records what it works out and posts, and touches nothing else (R61, R65, R68). -/
theorem State.finishDr_eq (s : State) (ns : List (Domain × DrPosting)) :
    s.finishDr ns =
      { s with
        dr := (s.dr.workOut s.pins.mwake).recordPosted
        links := { s.links with drToEngine := (s.finishDr ns).links.drToEngine } } :=
  State.postAll_frame ..

@[simp] theorem State.finishDr_dr (s : State) (ns : List (Domain × DrPosting)) :
    (s.finishDr ns).dr = (s.dr.workOut s.pins.mwake).recordPosted := by rw [State.finishDr_eq]

@[simp] theorem State.finishDr_ct (s : State) (ns : List (Domain × DrPosting)) : (s.finishDr ns).ct = s.ct := by
  rw [State.finishDr_eq]

@[simp] theorem State.finishDr_engines (s : State) (ns : List (Domain × DrPosting)) :
    (s.finishDr ns).engines = s.engines := by rw [State.finishDr_eq]

@[simp] theorem State.finishDr_timebase (s : State) (ns : List (Domain × DrPosting)) :
    (s.finishDr ns).timebase = s.timebase := by rw [State.finishDr_eq]

@[simp] theorem State.finishDr_ticks (s : State) (ns : List (Domain × DrPosting)) :
    (s.finishDr ns).ticks = s.ticks := by rw [State.finishDr_eq]

@[simp] theorem State.finishDr_ports (s : State) (ns : List (Domain × DrPosting)) :
    (s.finishDr ns).ports = s.ports := by rw [State.finishDr_eq]

@[simp] theorem State.finishDr_lastServed (s : State) (ns : List (Domain × DrPosting)) :
    (s.finishDr ns).lastServed = s.lastServed := by rw [State.finishDr_eq]

@[simp] theorem State.finishDr_pins (s : State) (ns : List (Domain × DrPosting)) :
    (s.finishDr ns).pins = s.pins := by rw [State.finishDr_eq]

@[simp] theorem State.finishDr_inReset (s : State) (ns : List (Domain × DrPosting)) :
    (s.finishDr ns).inReset = s.inReset := by rw [State.finishDr_eq]

@[simp] theorem State.finishDr_pending (s : State) (ns : List (Domain × DrPosting)) :
    (s.finishDr ns).pending = s.pending := by rw [State.finishDr_eq]

/-- What each engine receives at the end of an event: targets, then the need, then the event's notices (R66, R68, R140,
R146). -/
theorem State.finishDr_drToEngine (s : State) (ns : List (Domain × DrPosting)) (e : Domain) :
    (s.finishDr ns).links.drToEngine[e] =
      s.links.drToEngine[e] ++
        ((((s.dr.workOut s.pins.mwake).targetPostings ++ (s.dr.workOut s.pins.mwake).needPostings ++ ns).filter
          fun p => decide (p.1 = e)).map (·.2)) :=
  State.postAll_drToEngine ..

/-- Working out leaves the directory, the views, the claimed levels, keep-on and what was posted (R61 to R68). -/
theorem Dr.workOut_keeps (d : Dr) (w : Vector Bool 32) :
    (d.workOut w).dir = d.dir ∧ (d.workOut w).views = d.views ∧ (d.workOut w).claimed = d.claimed ∧
      (d.workOut w).keepOn = d.keepOn ∧ (d.workOut w).posted = d.posted ∧
      (d.workOut w).postedNeed = d.postedNeed ∧ (d.workOut w).eff = d.worked := by
  simp only [Dr.workOut, Dr.rewatch, and_self]

/-! ### Values worked out from the highest index down -/

/-- A table filled from the highest index down, where the value at an index is worked out from values at higher indices
only, holds at every index the value that the finished table gives. -/
theorem fillDown_get {α : Type} (g : Vector α 32 → Module → α) (v : Vector α 32)
    (hg : ∀ (a b : Vector α 32) (m : Module), (∀ u : Module, m < u → a[u] = b[u]) → g a m = g b m) (m : Module) :
    (allModules.foldr (fun (m : Module) (acc : Vector α 32) => acc.set m (g acc m)) v)[m] =
      g (allModules.foldr (fun (m : Module) (acc : Vector α 32) => acc.set m (g acc m)) v) m := by
  have key : ∀ (l : List Module) (w : Vector α 32), l.Pairwise (· < ·) →
      let F := l.foldr (fun (m : Module) (acc : Vector α 32) => acc.set m (g acc m)) w
      (∀ k : Module, k ∉ l → F[k] = w[k]) ∧
        ∀ k ∈ l, F[k] = g F k := by
    intro l w hl
    induction l with
    | nil => exact ⟨fun _ _ => rfl, fun k hk => absurd hk (by simp)⟩
    | cons a l ih =>
      rw [List.pairwise_cons] at hl
      obtain ⟨ih1, ih2⟩ := ih hl.2
      have hget (x : Vector α 32) (y : α) (k : Module) : (x.set a y)[k] = if k = a then y else x[k] := by
        by_cases hk : k = a
        · subst hk; simp
        · have : a.val ≠ k.val := fun e => hk (Fin.ext e.symm)
          simp [hk, this]
      simp only [List.foldr_cons]
      refine ⟨fun k hk => ?_, fun k hk => ?_⟩
      · rw [List.mem_cons, not_or] at hk
        rw [hget, if_neg hk.1]; exact ih1 k hk.2
      · rw [hget]
        rcases List.mem_cons.1 hk with rfl | hkl
        · rw [if_pos rfl]
          refine hg _ _ _ fun u hu => ?_
          rw [hget, if_neg (ne_of_gt hu)]
        · have hne : k ≠ a := ne_of_gt (hl.1 k hkl)
          rw [if_neg hne, ih2 k hkl]
          refine hg _ _ _ fun u hu => ?_
          rw [hget, if_neg (ne_of_gt (lt_trans (hl.1 k hkl) hu))]
  exact (key allModules v (List.pairwise_lt_finRange 32)).2 m (mem_allModules m)

/-- A dependent's index is above its supplier's (R58). -/
theorem lt_of_mem_dependentsIn {dir : Vector DirRecord 32} (h : ∀ m : Module, supplierBelow m dir[m]) {m u : Module}
    (hu : u ∈ dependentsIn dir m) : m < u := by
  have := (List.mem_filter.1 hu).2
  rw [Bool.and_eq_true, decide_eq_true_eq] at this
  exact h u m this.2

/-! ### Keyed streams -/

/-- The oldest element of a key, with what stands before and after it. -/
theorem takeKey_eq_some {α β : Type} [DecidableEq α] {k : α} {l : List (α × β)} {b : β} {rest : List (α × β)}
    (h : takeKey k l = some (b, rest)) :
    ∃ before after, l = before ++ (k, b) :: after ∧ rest = before ++ after ∧ ∀ x ∈ before, x.1 ≠ k := by
  induction l generalizing rest with
  | nil => cases h
  | cons x l ih =>
    obtain ⟨a, y⟩ := x
    unfold takeKey at h
    split at h
    · rename_i ha
      cases h
      exact ⟨[], l, by rw [ha]; rfl, rfl, by simp⟩
    · rename_i ha
      obtain ⟨out, ho, he⟩ := Option.map_eq_some_iff.1 h
      obtain ⟨c, r⟩ := out
      cases he
      obtain ⟨before, after, h1, h2, h3⟩ := ih ho
      refine ⟨(a, y) :: before, after, by rw [h1]; rfl, by rw [h2]; rfl, fun x hx => ?_⟩
      rcases List.mem_cons.1 hx with rfl | hx
      · exact ha
      · exact h3 x hx

/-- The oldest element of a key is the one before which no element has that key. -/
theorem takeKey_of_split {α β : Type} [DecidableEq α] {k : α} {b : β} {before after : List (α × β)}
    (h : ∀ x ∈ before, x.1 ≠ k) : takeKey k (before ++ (k, b) :: after) = some (b, before ++ after) := by
  induction before with
  | nil => simp [takeKey]
  | cons x l ih =>
    obtain ⟨a, y⟩ := x
    have ha : a ≠ k := h (a, y) (by simp)
    have := ih fun z hz => h z (by simp [hz])
    simp [takeKey, ha, this]

end Sys2Proof.Machine
end

