-- ==== Sys2Proof/Laws/Time.lean ====
section
/-! SUPPORT. The passing of time and the edges of the pins: what a tick, the end of a period, µs units and an edge leave
alone, and the rule that what each of their parts keeps, they keep. -/

namespace Sys2Proof.Machine

/-! ### What time leaves alone -/

/-- The ports, the inputs, the engines' directory, device reset and the waiting commands are as they were (R48). -/
abbrev TimeOnly (s t : State) : Prop :=
  t.ports = s.ports ∧ t.lastServed = s.lastServed ∧ t.pins = s.pins ∧ t.inReset = s.inReset ∧ t.pending = s.pending ∧
    t.engines.dir = s.engines.dir

theorem TimeOnly.refl (s : State) : TimeOnly s s := by simp [TimeOnly]

theorem TimeOnly.trans {s t u : State} (h : TimeOnly s t) (k : TimeOnly t u) : TimeOnly s u := by
  simp only [TimeOnly] at *
  simp [h, k]

theorem EnginesOnly.timeOnly {s t : State} (h : EnginesOnly s t) : TimeOnly s t := by
  simp only [TimeOnly, EnginesOnly, OnlyEngines] at *
  simp [h]

/-- The tick at an engine sets its waiting tick aside, and then touches what an engine touches (R104). -/
theorem State.takeEngineTick_enginesOnly (s : State) (e : Domain) :
    EnginesOnly (s.onTicks fun t => { t with eng := t.eng.set e false }) (s.takeEngineTick e) := by
  unfold State.takeEngineTick
  dsimp only
  split
  · exact .refl _
  · split
    · exact .refl _
    · split
      · split
        · exact (enginesOnly_beginRampDown ..).trans (enginesOnly_settleEngine ..)
        · exact enginesOnly_onDom ..
      · exact .refl _

theorem timeOnly_takeEngineTick (s : State) (e : Domain) : TimeOnly s (s.takeEngineTick e) :=
  .trans (by simp [TimeOnly]) (State.takeEngineTick_enginesOnly s e).timeOnly

theorem timeOnly_takeCtTick (s : State) : TimeOnly s s.takeCtTick := by simp [TimeOnly, State.takeCtTick]

theorem timeOnly_takeDrTick (s : State) : TimeOnly s s.takeDrTick := by simp [TimeOnly, State.takeDrTick]

@[simp] theorem State.takeEngineTick_timebase (s : State) (e : Domain) :
    (s.takeEngineTick e).timebase = s.timebase := (State.takeEngineTick_enginesOnly s e).2.1

@[simp] theorem State.takeEngineTick_ticks (s : State) (e : Domain) :
    (s.takeEngineTick e).ticks = { s.ticks with eng := s.ticks.eng.set e false } :=
  (State.takeEngineTick_enginesOnly s e).1.2.2.2.2.1

@[simp] theorem State.takeCtTick_timebase (s : State) : s.takeCtTick.timebase = s.timebase := by simp [State.takeCtTick]

@[simp] theorem State.takeDrTick_timebase (s : State) : s.takeDrTick.timebase = s.timebase := by simp [State.takeDrTick]

/-! ### Ticks that wait, the end of a period, and units -/

/-- What the tick at every user keeps, the taking of the ticks that wait keeps (R48). -/
theorem State.takeWaitingTicks_keeps (P : State → Prop) (hc : ∀ u, P u → P u.takeCtTick) (hd : ∀ u, P u → P u.takeDrTick)
    (he : ∀ u e, P u → P (u.takeEngineTick e)) {s : State} (hs : P s) : P s.takeWaitingTicks := by
  have h1 : P (if s.ticks.ct then s.takeCtTick else s) := by split; exacts [hc _ hs, hs]
  unfold State.takeWaitingTicks
  dsimp only
  refine foldl_keeps P _ (fun u e hu => ?_) _ _ ?_
  · split; exacts [he _ _ hu, hu]
  · generalize (if s.ticks.ct = true then s.takeCtTick else s) = u at h1 ⊢
    split; exacts [hd _ h1, h1]

@[simp] theorem State.takeWaitingTicks_timebase (s : State) : s.takeWaitingTicks.timebase = s.timebase :=
  State.takeWaitingTicks_keeps (fun u => u.timebase = s.timebase) (by simp) (by simp) (by simp) rfl

theorem timeOnly_takeWaitingTicks (s : State) : TimeOnly s s.takeWaitingTicks :=
  State.takeWaitingTicks_keeps (TimeOnly s) (fun u h => h.trans (timeOnly_takeCtTick u))
    (fun u h => h.trans (timeOnly_takeDrTick u)) (fun u e h => h.trans (timeOnly_takeEngineTick u e)) (.refl s)

theorem timeOnly_endPeriod (s : State) : TimeOnly s s.endPeriod :=
  (timeOnly_takeWaitingTicks s).trans (by simp [TimeOnly, State.endPeriod, State.issueTick])

/-- The next period begins with its counts at 0 and the length TICKDIV has (R46). -/
@[simp] theorem State.endPeriod_timebase (s : State) :
    s.endPeriod.timebase =
      { tickDiv := s.timebase.tickDiv, usCount := 0, quarterCount := 0, periodLength := s.timebase.tickDiv } := by
  simp [State.endPeriod, State.issueTick, Timebase.advance]

@[simp] theorem State.endPeriod_ticks (s : State) :
    s.endPeriod.ticks = { ct := true, dr := true, eng := Vector.replicate 4 true } := rfl

/-- No time leaves the state as it is. -/
@[simp] theorem State.elapse_zero (s : State) : s.elapse 0 = s := rfl

/-- Units that do not reach the end of the period are counted (R46). -/
theorem State.elapse_within {s : State} {d : Nat} (h0 : 0 < d) (h : d < s.timebase.left) :
    s.elapse d = s.countUnits d := by
  obtain ⟨n, rfl⟩ := Nat.exists_eq_succ_of_ne_zero h0.ne'
  simp [State.elapse, State.passUnits, h]

/-- What the counting of units and the end of a period keep, the passing of time keeps (R45, R46). -/
theorem State.elapse_keeps (P : State → Prop) (hc : ∀ u d, P u → P (u.countUnits d)) (he : ∀ u, P u → P u.endPeriod)
    {s : State} (d : Nat) (hs : P s) : P (s.elapse d) := by
  suffices h : ∀ (fuel n : Nat) (u : State), P u → P (State.passUnits fuel n u) from h _ _ _ hs
  intro fuel
  induction fuel with
  | zero => exact fun _ _ hu => hu
  | succ f ih =>
    intro n u hu
    unfold State.passUnits
    split
    · exact hc _ _ hu
    · exact ih _ _ (he _ hu)

theorem timeOnly_elapse (s : State) (d : Nat) : TimeOnly s (s.elapse d) :=
  State.elapse_keeps (TimeOnly s) (fun u d h => h.trans (by simp [TimeOnly])) (fun u h => h.trans (timeOnly_endPeriod u))
    d (.refl s)

@[simp] theorem State.elapse_pins (s : State) (d : Nat) : (s.elapse d).pins = s.pins := (timeOnly_elapse s d).2.2.1

@[simp] theorem State.elapse_tickDiv (s : State) (d : Nat) : (s.elapse d).timebase.tickDiv = s.timebase.tickDiv :=
  State.elapse_keeps (fun u => u.timebase.tickDiv = s.timebase.tickDiv) (by simp) (by simp) d rfl

/-! ### Edges -/

/-- Where no edge of a pin waits, none is found waiting. -/
theorem edges_of_settled {l : List Edge} {p : Pin} (h : ∀ g ∈ l, g.pin ≠ p) :
    l.filter (fun g => decide (g.pin = p)) = [] := by
  simpa [List.filter_eq_nil_iff] using h

/-- Taking the edges of a pin with none waiting changes nothing. -/
theorem State.takeEdges_settled {s : State} {p : Pin} (h : ∀ g ∈ s.pins.edges, g.pin ≠ p) : s.takeEdges p = s := by
  refine State.awake_keeps (· = s) _ rfl fun _ => ?_
  rw [edges_of_settled h, List.foldl_nil]

/-- An edge that comes while the blocks run, with none of its pin waiting, is taken at once with its pin changed
(R90, R94, R102, R109, R117, R119). -/
theorem State.edge_taken {s : State} {g : Edge} (hr : s.inReset = false ∧ s.pins.refclk = true)
    (hs : ∀ x ∈ s.pins.edges, x.pin ≠ g.pin) (hl : s.pins.level g.pin ≠ g.up) :
    (s.drive g).takeEdges g.pin = ({ s with pins := s.pins.put g.up g.pin } : State).takeEdge g := by
  have hg : g ∉ s.pins.edges := fun h => hs g h rfl
  have hd : s.drive g = s.onPins fun p => { p.put g.up g.pin with edges := p.edges ++ [g] } := by
    simp [State.drive, hl, hr.1]
  have he : (s.pins.put g.up g.pin).edges = s.pins.edges ∧ (s.pins.put g.up g.pin).refclk = true := by
    cases g.pin <;> exact ⟨rfl, hr.2⟩
  rw [hd, State.takeEdges, State.awake_running]
  · simp [State.onPins, State.takeWaiting, edges_of_settled hs, List.erase_append_right _ hg]
    rw [← he.1]
  · exact ⟨hr.1, he.2⟩

/-- A rise of DPG taken in RAMP_UP with a fall waiting behind it leaves the ramp waiting (R102). -/
theorem State.takePowerRise_withdrawn {s : State} {x : SwDom} (h : { pin := .dpg x, up := false } ∈ s.pins.edges) :
    s.takePowerRise x = s := by
  simp [State.takePowerRise, State.powerFallWaits, h]

end Sys2Proof.Machine
end

