-- ==== Sys2Proof/Tests/Slice0.lean ====
section
/-! SUPPORT. Tests of one event each, with results taken from the specification's text, and the witnesses: for every
statement of Certificates/Slice0/Obligations.lean with hypotheses, a concrete state and operands that meet them, clause
by clause. -/

namespace Sys2Proof.Tests

-- One theorem after another, so that few threads run at a time.
set_option Elab.async false

open Sys2Proof.Machine

/-! ### Small states -/

/-- A request with sequence 5. -/
def req (code : Byte) (ops : List Byte) : Request := { code := code, sequence := 5, operands := ops }

/-- Request `r` waits in the slot of port `p`. -/
def asks (p : Port) (r : Request) (s : State) : State :=
  s.onPort p fun q => { q with slot := some r, holder := { AnswerBytes.reset with status := 0x02, echo := 5 } }

/-- The state a command leads to. -/
def after (c : Instr) (s : State) : State :=
  match exec c s with
  | .next t => t
  | .fault _ => s
  | .refused _ => s

/-- The answer in a port's holder, first four result bytes. -/
def shown (s : State) (p : Port) : List Byte :=
  let h := s.ports[p].holder
  [h.status, h.echo, h.b2, h.b3, h.b4, h.b5]

/-- A directory record is written in all three copies. -/
def withRecord (m : Module) (d : DirRecord) (s : State) : State :=
  ((s.onCt fun ct => { ct with dir := ct.dir.set m d }).onDr fun k => { k with dir := k.dir.set m d }).onEngines
    fun g => { g with dir := g.dir.set m d }

/-- A present module of D1, owned by HP1. -/
def record (wake : Bool) (u : Option Module) : DirRecord :=
  { present := true, wakeUsed := wake, domain := 1, supplier := u, owner := 1 }

/-- D1 in state `d`, with the lines, count and cause of Tables 6-2 and 6-3. -/
def withD1 (d : DomState) (s : State) : State :=
  s.onDom 0 fun r =>
    { r with
      state := d, dsw := decide (d = .rampUp ∨ d = .on ∨ d = .linger), isoReleased := decide (d = .on ∨ d = .linger)
      cause := if d = .fault then some .stuckOn else none, lingerCount := if d = .linger then some 1 else none }

/-- M7 (wake used) and M9 under it, both in D1, which is ON. -/
def board : State :=
  withD1 .on (withRecord 9 (record false (some 7)) (withRecord 7 (record true none) State.reset))

/-- A record at rest in state `st`. -/
def atRest (st : PhysState) (r : ModRec) : ModRec :=
  { r with
    state := st, clockOpen := st.lines.1, resetReleased := st.lines.2
    cause := if st = .fault then some .ackTimeout else none }

/-- The board with M7 in state `st`. -/
def boardAt (st : PhysState) : State := board.onMod 7 (atRest st)

/-- The board with step `steps` in flight for M7 at E1, M7 standing in `st`. -/
def stepping (steps : List LineStep) (st : PhysState) (tg : Target) (restart : Option Port) : State :=
  ((boardAt st).onMod 7 fun r =>
      { r with
        stepping := true, wanted := tg
        clockOpen := (linesDuring (steps.headD .hold) st).1, resetReleased := (linesDuring (steps.headD .hold) st).2 }).onRec
    1 fun g =>
      { g with work := .transition { module := 7, steps := steps, target := tg, restart := restart }, timer := some 3 }

/-- A posting of the demand resolver on its way to E1. -/
def posted (p : DrPosting) (s : State) : State := s.demandEngine 1 p

/-- A posting of the claim table on its way to E1. -/
def handed (p : CtPosting) (s : State) : State := s.postEngine 1 p

/-- E1's queue. -/
def queued (q : List Entry) (s : State) : State := s.onRec 1 fun g => { g with queue := q }

/-- A leased PENDING claim of HP1 on M7, at its last tick. -/
def claimA : Claim :=
  { holder := 1, module := 7, level := 3, leaseLength := 10, leaseLeft := some 1, tag := 0xBEEF, genSeen := none
    state := .pending }

/-- A pinned GRANTED claim of HP2 on M7. -/
def claimB : Claim :=
  { holder := 2, module := 7, level := 1, leaseLength := 0, leaseLeft := none, tag := 0x0102, genSeen := some 4
    state := .granted }

/-- A BROKEN claim of HP1 on M9. -/
def claimC : Claim :=
  { holder := 1, module := 9, level := 2, leaseLength := 5, leaseLeft := none, tag := 0, genSeen := none
    state := .broken .supplierFault }

/-- The board with claims in slots 3, 5 and 127, a mark of HP1, and a cursor of HP3. -/
def claims : State :=
  board.onCt fun ct =>
    { ct with
      slots := ((ct.slots.set 3 { gen := 0, claim := some claimA }).set 5 { gen := 255, claim := some claimB }).set 127
        { gen := 2, claim := some claimC }
      lists := ct.lists.set 7 [3, 5]
      claimed := ct.claimed.set 7 3
      views := ct.views.set 7 { level := 1, gen := 4, fault := false }
      ports := ((ct.ports.set 1 { count := 2, quota := 32, changes := [127], cursor := none }).set 2
        { count := 1, quota := 32, changes := [], cursor := none }).set 3
          { count := 0, quota := 32, changes := [], cursor := some { module := 7, after := some 3 } } }

/-- Every slot holds a claim. -/
def fullTable : State :=
  board.onCt fun ct => { ct with slots := Vector.replicate 128 { gen := 0, claim := some claimB } }

/-- M7 watched by the demand resolver, at effective level 2. -/
def watching : State :=
  board.onDr fun d =>
    { d with
      claimed := d.claimed.set 7 2, eff := d.eff.set 7 2
      views := d.views.set 7 { state := .running, armed := false, woken := false }
      watched := d.watched.set 7 true, posted := d.posted.set 7 .pausedArmed
      need := d.need.set 1 true, postedNeed := d.postedNeed.set 0 true }

/-! ### WellFormed -/

theorem test_domain_alert_outside_hp0_ill_formed :
    Instr.wellFormed (.alertPostingReachesPort 1 (.domain 0) .domainFault) = false := by decide

theorem test_domain_alert_of_module_reason_ill_formed :
    Instr.wellFormed (.alertPostingReachesPort 0 (.domain 0) .strayWake) = false := by decide

theorem test_module_alert_of_domain_fault_ill_formed :
    Instr.wellFormed (.alertPostingReachesPort 0 (.module 3) .domainFault) = false := by decide

theorem test_domain_alert_at_hp0_well_formed :
    Instr.wellFormed (.alertPostingReachesPort 0 (.domain 2) .domainFault) = true := by decide

/-! ### One event each, results from the specification's text -/

/-- R177: PLACE after reset is answered NO_MODULE (12.1, step 2). -/
theorem test_place_after_reset :
    shown (after .place (asks 1 (req 0x01 [7, 3, 0, 0, 0, 0]) State.reset)) 1 = [0x13, 0x05, 0, 0, 0, 0] := by
  decide +kernel

/-- 12.1, step 5: SET MODULE of M7 before its supplier M2 is present is answered BAD_ARGUMENT. -/
theorem test_set_module_before_supplier :
    shown (after .setModule (asks 0 (req 0x20 [0x07, 0x13, 0x01, 0x02]) State.reset)) 0 = [0x11, 0x05, 0, 0, 0, 0] := by
  decide +kernel

/-- 12.1, step 6: SET MODULE of M2 with an absent supplier is answered OK, M2. -/
theorem test_set_module_bridge :
    shown (after .setModule (asks 0 (req 0x20 [0x02, 0x01, 0x00, 0xFF]) State.reset)) 0 = [0x01, 0x05, 2, 0, 0, 0] := by
  decide +kernel

/-- 12.1, step 11: QUERY DOMAIN of a fresh D1: OFF, no need, none out of OFF, power-good low, D1. -/
theorem test_query_domain_fresh :
    (after .queryDomain (asks 1 (req 0x09 [1]) State.reset)).ports[(1 : Port)].holder =
      { status := 1, echo := 5, b2 := 0, b3 := 0, b4 := 0, b5 := 0, b6 := 1, b7 := 0 } := by decide +kernel

/-- 12.2, step 9: a PLACE at RETAIN on a module whose view shows level 1 or more starts GRANTED (claim byte 0x02), with
the generation of the view. -/
theorem test_place_granted :
    shown (after .place (asks 2 (req 0x01 [7, 1, 0, 0, 0, 0]) claims)) 2 = [0x01, 0x05, 0, 0, 0x02, 4] := by
  decide +kernel

/-- R16: a generation of 255 is followed by 0. -/
theorem test_release_wraps_generation :
    shown (after .release (asks 2 (req 0x04 [5, 255]) claims)) 2 = [0x01, 0x05, 0x02, 7, 0, 0] := by decide +kernel

/-- R50, R51: the tick at which a lease runs out lapses the claim. -/
theorem test_lapse :
    ((after (.lapse 3) (claims.onTicks fun t => { t with ct := true })).ct.claimAt 3).map (fun c => c.state) =
      some .lapsed := by decide +kernel

/-- R46: TICKDIV is 4 after reset, so the tick comes 1000 µs units after the release. -/
theorem test_first_tick_period : State.reset.timebase.left = 1000 := by decide

/-- R152: bit 27 of a frame is bit 4 of byte 3 of the answer, and what follows byte 7 is 0. -/
theorem test_hsdo_byte_3 :
    (let s := after (.frameBegin 0) (State.reset.onPort 0 fun q => { q with holder := { q.holder with b3 := 0x10 } })
     [26, 27, 28, 64, 999].map s.ports[(0 : Port)].wire.hsdo) =
      [some false, some true, some false, some false, some false] := by decide +kernel

/-- R158: a code that names no command is answered BAD_COMMAND. -/
theorem test_bad_command :
    shown (after .badCommand (asks 3 (req 0x06 []) State.reset)) 3 = [0x10, 0x05, 0, 0, 0, 0] := by decide +kernel

/-- R153, R157: a second frame while the first waits sets OVERRUN, and the next answer carries it. -/
theorem test_overrun :
    shown (after .takeAlert (after (.frameEnd 1 (List.replicate 24 true))
      (after (.frameBegin 1) (asks 1 (req 0x0D []) State.reset)))) 1 = [0x03, 0x15, 0, 0, 0, 0] := by decide +kernel

/-- Table 5-4: from OFF to RUNNING, CLOCK_ON waits for MRDY, then HOLD; with the hold the module is RUNNING at
generation 1. -/
theorem test_bring_up :
    (let s := after (.takeEntry 1) (queued [{ module := 7, target := .running, restart := none }]
        ((board.onDom 0 fun r => { r with need := true }).onMod 7 fun r => { r with wanted := .running }))
     let t := after (.hold 1) (after (.mrdyRise 7) s)
     ((s.modAt 7).clockOpen, (t.modAt 7).state, (t.modAt 7).gen)) = (true, .running, 1) := by decide +kernel

/-- R110: a loss of power-good in ON puts the domain into FAULT and its modules with it. -/
theorem test_power_lost :
    (let s := after (.dpgFall 0) (board.onPins fun p => { p with dpg := p.dpg.set 0 true })
     (s.engines.doms[(0 : SwDom)].state, (s.modAt 7).cause, (s.modAt 9).cause)) =
      (.fault, some .domain, some .domain) := by decide +kernel

/-- R57, R59, R66: a claimed level of 3 on M9 raises M7 with it, and E1 receives M7's target before M9's. -/
theorem test_demand_raises_supplier :
    (after (.claimedLevelNotice 9)
      (board.onLinks fun l => { l with claimedLevels := [(9, 3)] })).links.drToEngine[(1 : Domain)] =
      [.target 7 .running, .target 9 .running, .need true] := by decide +kernel

/-! ### Witnesses: device reset and the ports -/

/-- REFCLK stands still, with the edges `l` waiting. -/
def standing (l : List Edge) (s : State) : State := s.onPins fun p => { p with refclk := false, edges := l }

/-- The µs unit after reset; the last unit of the first period; device reset; REFCLK that stands still, that is to
start, and that runs again with an edge waiting. -/
theorem witness_IdleStepPassesOneUnit :
    (let s := State.reset
     s.pending = [] ∧ Running s ∧ s.pins.refclkAhead = [] ∧ s.pins.edges = [] ∧
      s.timebase.elapsed + 1 < s.timebase.periodLength * 250) ∧
    (let s := State.reset.elapse 999
     s.pending = [] ∧ Running s ∧ s.pins.refclkAhead = [] ∧ s.pins.edges = [] ∧
      s.timebase.elapsed + 1 = s.timebase.periodLength * 250) ∧
    ((after .deviceResetAsserted State.reset).inReset = true ∧
      (after .deviceResetAsserted State.reset).pending = []) ∧
    (let s := standing [] board
     s.inReset = false ∧ s.pins.refclk = false ∧ needsRefclk .place = true ∧ s.pins.refclkAhead = [] ∧
      s.pins.level (.mrdy 7) = false) ∧
    ((standing [] board).onPins fun p => { p with refclkAhead := [true] }).pins.refclkAhead = true :: [] ∧
    (let s := board.onPins fun p => { p with edges := [{ pin := .dpg 0, up := true }] }
     s.pending = [] ∧ Running s ∧ s.pins.refclkAhead = [] ∧ s.pins.edges = { pin := .dpg 0, up := true } :: []) ∧
    (Running board ∧ Settled board (.mwake 31) ∧ board.pins.level (.mwake 31) ≠ true) := by
  repeat' apply And.intro
  all_goals decide +kernel

/-- R45: an edge and a request that come while REFCLK stands still wait, and are taken when it runs again. -/
theorem test_refclk_standing_still :
    (let d := (withD1 .rampUp board).onDom 0 fun r => { r with need := true }
     let s := after .takeAlert (after (.dpgRise 0) (asks 1 (req 0x0D []) (standing [] d)))
     let t := after .takeAlert (after (.dpgRise 0) (s.onPins fun p => { p with refclk := true }))
     (s.engines.doms[(0 : SwDom)].state, s.ports[(1 : Port)].slot.isSome, s.pins.edges.length,
       t.engines.doms[(0 : SwDom)].state, t.ports[(1 : Port)].slot.isSome, t.pins.edges.length)) =
      (.rampUp, true, 1, .on, false, 0) := by decide +kernel

/-- R46: the ticks of the periods that end while a ramp timeout of 2000 µs runs out are issued, and the counts go on. -/
theorem test_no_tick_is_lost :
    (let s := after (.rampTimeout 0) (((withD1 .rampUp board).onRec 1 fun g =>
       { g with work := .ramp, timer := some 2003 }))
     (s.timebase.quarterCount, s.timebase.usCount, s.ticks.ct)) = (0, 3, true) := by decide +kernel

theorem witness_AnswersAfterReset : ∀ p : Port, ∀ ops ∈ ([[31, 1], [31, 3], [0, 0], [3, 0]] : List (List Byte)),
    let r := req codePlace ops
    let s := asks p r State.reset
    s.ct = Ct.reset ∧ s.engines = Engines.reset ∧ s.dr = Dr.reset ∧ Running s ∧
      s.nextRequest = some (p, r) ∧ s.ports[p].alerts = [] := by decide +kernel

theorem witness_FrameBeginCopiesTheHolder :
    (after (.frameBegin 3) State.reset).ports[(3 : Port)].wire ≠ .deselected ∧
      State.reset.ports[(3 : Port)].wire = .deselected ∧ State.reset.inReset = false ∧
      (after .deviceResetAsserted State.reset).ports[(3 : Port)].wire = .deselected ∧
      (after .deviceResetAsserted State.reset).inReset = true := by decide +kernel

theorem witness_FrameEndClassifies :
    ([] : List Bool).length < 8 ∧ (List.replicate 7 true).length < 8 ∧
      (after (.frameBegin 2) (after .deviceResetAsserted State.reset)).ports[(2 : Port)].wire = .ignored ∧
      (after (.frameBegin 2) State.reset).ports[(2 : Port)].wire = .frame AnswerBytes.reset := by decide +kernel

/-- The request commands, with their codes. -/
def requests : List (Instr × Byte) :=
  [(.place, 0x01), (.change, 0x02), (.renew, 0x03), (.release, 0x04), (.queryClaim, 0x05), (.queryModule, 0x08),
   (.queryDomain, 0x09), (.browse, 0x0A), (.browseNext, 0x0B), (.takeChange, 0x0C), (.takeAlert, 0x0D),
   (.setNotify, 0x0E), (.restart, 0x10), (.clearModuleFault, 0x11), (.detach, 0x1F), (.setModule, 0x20),
   (.setModuleTiming, 0x21), (.setDomain, 0x22), (.setKeepOn, 0x23), (.setQuota, 0x24), (.setTick, 0x25),
   (.evict, 0x26), (.retireAll, 0x27), (.clearDomainFault, 0x28)]

/-- For EveryServedRequestIsAnswered, RefusedCodesChangeNothing and HostsTouchOnlyTheirOwnClaims, from HP1 and HP3. -/
theorem witness_requests : ∀ x ∈ requests, ∀ p : Port,
    requestCode x.1 = some x.2 ∧ Serving (asks p (req x.2 []) State.reset) p (req x.2 []) x.2 := by decide +kernel

theorem witness_ArbiterServesInTurn :
    let s := asks 2 (req 0x0D []) (asks 0 (req 0x0C []) State.reset)
    s.nextRequest = some (0, req 0x0C []) ∧ (2 : Port) ≠ 0 ∧ s.ports[(2 : Port)].slot.isSome = true := by
  decide +kernel

theorem witness_RefusedCodesChangeNothing : ∀ n ∈ [0x06, 0x07, 0x0F, 0x12, 0x1E, 0x29, 0xFF],
    let r := req (BitVec.ofNat 8 n) []
    let s := asks 3 r State.reset
    Running s ∧ s.nextRequest = some (3, r) ∧ r.code.toNat = n ∧
      (n = 0x06 ∨ n = 0x07 ∨ n = 0x0F ∨ (0x12 ≤ n ∧ n ≤ 0x1E) ∨ 0x29 ≤ n) := by decide +kernel

theorem witness_AlertsArePostedAndTaken :
    (let s := State.reset.alert 0 (.domain 2) .domainFault
     Running s ∧ AlertSetsRight s ∧
      { port := 0, subject := .domain 2, reason := .domainFault } ∈ s.links.alerts) ∧
    (let r := req codeTakeAlert []
     let s := asks 1 r State.reset
     Serving s 1 r codeTakeAlert ∧ s.ports[(1 : Port)].alerts = []) ∧
    (let r := req codeTakeAlert []
     let a : AlertEntry := { subject := .module 31, reasons := 0x03 }
     let s := asks 1 r (State.reset.onPort 1 fun q => { q with alerts := [a] })
     Serving s 1 r codeTakeAlert ∧ s.ports[(1 : Port)].alerts = [a]) := by decide +kernel

theorem witness_SetNotifySetsTheEnable : ∀ b ∈ ([0, 1, 2, 0xFF] : List Byte),
    let r := req codeSetNotify [b]
    Serving (asks 3 r claims) 3 r codeSetNotify := by decide +kernel

theorem witness_DetachFreesTheRequestersClaims :
    let r := req codeDetach []
    let s := asks 1 r claims
    Serving s 1 r codeDetach ∧ CountsRight s ∧ ListsRight s ∧ ChangeSetsRight s ∧ CursorsRight s ∧
      s.ct.ports[(3 : Port)].cursor = some { module := 7, after := some 3 } ∧ claimA.holder = 1 := by decide +kernel

/-! ### Witnesses: claim requests -/

/-- Granted (level 1 against a view of level 1), pending (level 3), ONCALL on a wake-used module (level 2). -/
theorem witness_PlaceFillsTheLowestFreeSlot : ∀ l : Level, 1 ≤ l →
    let r := req codePlace [7, BitVec.ofNat 8 l.val, 0xFF, 0xFF, 0, 1]
    let s := asks 1 r claims
    Serving s 1 r codePlace ∧ (r.byte 2).toNat = (7 : Module).val ∧ (r.byte 3).toNat = l.val ∧
      s.ct.dir[(7 : Module)].present = true ∧ s.ct.views[(7 : Module)].fault = false ∧
      s.domState s.ct.dir[(7 : Module)].domain ≠ .fault ∧ (l = 2 → s.ct.dir[(7 : Module)].wakeUsed = true) ∧
      s.ct.ports[(1 : Port)].count < s.ct.ports[(1 : Port)].quota ∧ s.ct.claimAt 0 = none ∧
      ∀ x : Slot, x < 0 → s.ct.claimAt x ≠ none := by decide +kernel

/-- Each check of PLACE failing first, at its boundary: module 32, levels 0 and 4; an absent module; a fault mark; a
domain in FAULT; ONCALL without wake; a full quota; a full table. -/
theorem witness_PlaceReportsTheFirstFailingCheck :
    (∀ ops ∈ ([[32, 1], [0, 0], [0, 4]] : List (List Byte)),
      Serving (asks 1 (req codePlace ops) board) 1 (req codePlace ops) codePlace ∧
        (32 ≤ ((req codePlace ops).byte 2).toNat ∨ ((req codePlace ops).byte 3).toNat = 0 ∨
          4 ≤ ((req codePlace ops).byte 3).toNat)) ∧
    board.ct.dir[(31 : Module)].present = false ∧
    (withD1 .fault board).domState board.ct.dir[(7 : Module)].domain = .fault ∧
    ((board.onCt fun ct => { ct with views := ct.views.set 7 { level := 0, gen := 0, fault := true } }).ct.views[
      (7 : Module)].fault = true) ∧
    board.ct.dir[(9 : Module)].wakeUsed = false ∧
    ((board.onCt fun ct => ct.onPort 1 fun q => { q with quota := 0 }).ct.ports[(1 : Port)].quota ≤
      board.ct.ports[(1 : Port)].count) ∧
    ∀ sl : Slot, fullTable.ct.claimAt sl ≠ none := by decide +kernel

/-- To the same level, to one within the view, and to one above it. -/
theorem witness_ChangeDecidesAfresh : ∀ l : Level, 1 ≤ l →
    let r := req codeChange [3, 0, BitVec.ofNat 8 l.val]
    let s := asks 1 r claims
    Serving s 1 r codeChange ∧ Names s r 3 claimA ∧ claimA.holder = 1 ∧ claimA.state.live = true ∧
      (r.byte 4).toNat = l.val ∧ (l = 2 → s.ct.dir[claimA.module].wakeUsed = true) := by decide +kernel

theorem witness_RenewRestartsTheLease : ∀ ops ∈ ([[3, 0, 0, 0], [3, 0, 0xFF, 0xFF]] : List (List Byte)),
    let r := req codeRenew ops
    let s := asks 1 r claims
    Serving s 1 r codeRenew ∧ Names s r 3 claimA ∧ claimA.holder = 1 ∧ claimA.state.live = true ∧
      claimA.leaseLength ≠ 0 := by decide +kernel

/-- A live claim at generation 255, and a dead one in the last slot. -/
theorem witness_ReleaseFreesTheSlot :
    (let r := req codeRelease [5, 255]
     let s := asks 2 r claims
     Serving s 2 r codeRelease ∧ Names s r 5 claimB ∧ claimB.holder = 2) ∧
    (let r := req codeRelease [127, 2]
     let s := asks 1 r claims
     Serving s 1 r codeRelease ∧ Names s r 127 claimC ∧ claimC.holder = 1) := by decide +kernel

/-- A stale handle (a wrong generation, a FREE slot, slot byte 128), a claim of another port, a dead claim, a pinned
claim renewed, and CHANGE levels 0 and 4. -/
theorem witness_HolderCommandsReportTheFirstFailingCheck :
    (∀ ops ∈ ([[5, 0], [0, 0], [128, 0]] : List (List Byte)),
      Serving (asks 2 (req codeRelease ops) claims) 2 (req codeRelease ops) codeRelease ∧
        NamesNone (asks 2 (req codeRelease ops) claims) (req codeRelease ops)) ∧
    (let r := req codeRenew [5, 255]
     Serving (asks 1 r claims) 1 r codeRenew ∧ Names (asks 1 r claims) r 5 claimB ∧ claimB.holder ≠ 1 ∧
      Serving (asks 2 r claims) 2 r codeRenew ∧ Names (asks 2 r claims) r 5 claimB ∧ claimB.holder = 2 ∧
      claimB.state.live = true ∧ claimB.leaseLength = 0) ∧
    (let r := req codeChange [127, 2, 1]
     Serving (asks 1 r claims) 1 r codeChange ∧ Names (asks 1 r claims) r 127 claimC ∧ claimC.state.live = false) ∧
    ∀ l ∈ ([0, 4] : List Byte),
      let r := req codeChange [3, 0, l]
      Serving (asks 1 r claims) 1 r codeChange ∧ Names (asks 1 r claims) r 3 claimA ∧
        ((r.byte 4).toNat = 0 ∨ 4 ≤ (r.byte 4).toNat) := by
  repeat' apply And.intro
  all_goals decide +kernel

theorem witness_QueryClaimReportsTheClaim :
    (let r := req codeQueryClaim [128, 0]
     Serving (asks 0 r claims) 0 r codeQueryClaim ∧ NamesNone (asks 0 r claims) r) ∧
    let r := req codeQueryClaim [127, 2]
    Serving (asks 0 r claims) 0 r codeQueryClaim ∧ Names (asks 0 r claims) r 127 claimC := by decide +kernel

theorem witness_QueryModuleReportsEveryBlock : ∀ b ∈ ([0, 31, 32] : List Byte),
    let r := req codeQueryModule [b]
    Serving (asks 2 r claims) 2 r codeQueryModule ∧ (32 ≤ (r.byte 2).toNat ∨ (r.byte 2).toNat = b.toNat) := by
  decide +kernel

theorem witness_QueryDomainReportsEveryBlock : ∀ b ∈ ([0, 1, 3, 4] : List Byte),
    let r := req codeQueryDomain [b]
    Serving (asks 2 r claims) 2 r codeQueryDomain ∧ (4 ≤ (r.byte 2).toNat ∨ (r.byte 2).toNat = b.toNat) := by
  decide +kernel

theorem witness_BrowseSetsTheCursor : ∀ b ∈ ([0, 31, 32] : List Byte),
    let r := req codeBrowse [b]
    Serving (asks 3 r claims) 3 r codeBrowse ∧ (32 ≤ (r.byte 2).toNat ∨ (r.byte 2).toNat = b.toNat) := by
  decide +kernel

/-- No cursor, a cursor before the first claim, and one after the first of two. -/
theorem witness_BrowseNextReturnsTheFollowingClaim :
    let r := req codeBrowseNext []
    (Serving (asks 1 r claims) 1 r codeBrowseNext ∧ ListsRight (asks 1 r claims) ∧
      (asks 1 r claims).ct.ports[(1 : Port)].cursor = none) ∧
    (let s := asks 3 r (claims.onCt fun ct => ct.onPort 3 fun q => { q with cursor := some ⟨7, none⟩ })
     Serving s 3 r codeBrowseNext ∧ ListsRight s ∧
      s.ct.ports[(3 : Port)].cursor = some { module := 7, after := none } ∧ s.ct.lists[(7 : Module)] = [3, 5]) ∧
    (Serving (asks 3 r claims) 3 r codeBrowseNext ∧ ListsRight (asks 3 r claims) ∧
      (asks 3 r claims).ct.ports[(3 : Port)].cursor = some { module := 7, after := some 3 } ∧
      (asks 3 r claims).ct.lists[(7 : Module)] = [] ++ 3 :: [5]) := by decide +kernel

/-- The claim that follows the cursor leaves, and the claim the cursor stands after leaves. -/
theorem witness_RemovalsLoseNoLaterClaim :
    claims.ct.lists[(7 : Module)].Nodup ∧ 3 ∈ claims.ct.lists[(7 : Module)] ∧ 5 ∈ claims.ct.lists[(7 : Module)] ∧
      claims.ct.ports[(3 : Port)].cursor = some { module := 7, after := some 3 } ∧
      claims.ct.following { module := 7, after := some 3 } = some 5 := by decide +kernel

theorem witness_TakeChangeReportsTheLowestSlot :
    let r := req codeTakeChange []
    (Serving (asks 2 r claims) 2 r codeTakeChange ∧ ChangeSetsRight (asks 2 r claims) ∧
      (asks 2 r claims).ct.ports[(2 : Port)].changes = []) ∧
    Serving (asks 1 r claims) 1 r codeTakeChange ∧ ChangeSetsRight (asks 1 r claims) ∧
      (asks 1 r claims).ct.ports[(1 : Port)].changes = [127] ∧
      (asks 1 r claims).ct.claimAt 127 = some claimC := by decide +kernel

/-! ### Witnesses: control operations, restart and clears -/

/-- A live claim of HP2, one of HP0, a dead one, and handles that name no claim. -/
theorem witness_EvictEndsOrFreesTheClaim :
    (∀ ops ∈ ([[5, 0], [0, 0], [128, 0]] : List (List Byte)),
      Serving (asks 0 (req codeEvict ops) claims) 0 (req codeEvict ops) codeEvict ∧
        NamesNone (asks 0 (req codeEvict ops) claims) (req codeEvict ops)) ∧
    (let r := req codeEvict [9, 1]
     let c : Claim := { claimA with holder := 0 }
     let s := asks 0 r (claims.onCt fun ct => { ct with slots := ct.slots.set 9 { gen := 1, claim := some c } })
     Serving s 0 r codeEvict ∧ Names s r 9 c ∧ c.state.live = true ∧ c.holder = 0) ∧
    (let r := req codeEvict [5, 255]
     Serving (asks 0 r claims) 0 r codeEvict ∧ Names (asks 0 r claims) r 5 claimB ∧ claimB.state.live = true ∧
      claimB.holder ≠ 0) ∧
    let r := req codeEvict [127, 2]
    Serving (asks 0 r claims) 0 r codeEvict ∧ Names (asks 0 r claims) r 127 claimC ∧ claimC.state.live = false := by
  repeat' apply And.intro
  all_goals decide +kernel

theorem witness_RetireAllFreesEverySlot :
    let r := req codeRetireAll []
    let s := asks 0 r claims
    Serving s 0 r codeRetireAll ∧ CountsRight s ∧ ListsRight s ∧ ChangeSetsRight s := by decide +kernel

theorem witness_SetQuotaSetsTheQuota : ∀ ops ∈ ([[0, 0], [3, 128], [4, 0], [0, 129]] : List (List Byte)),
    let r := req codeSetQuota ops
    Serving (asks 0 r claims) 0 r codeSetQuota ∧
      (4 ≤ (r.byte 2).toNat ∨ 128 < (r.byte 3).toNat ∨ ((r.byte 2).toNat ≤ 3 ∧ (r.byte 3).toNat ≤ 128)) := by
  decide +kernel

theorem witness_TheDividerSetsTheNextPeriod :
    (∀ b ∈ ([0, 1, 64, 65] : List Byte), Serving (asks 0 (req codeSetTick [b]) board) 0 (req codeSetTick [b])
      codeSetTick) ∧
    (let s := State.reset.onLinks fun l => { l with dividers := [64, 1] }
     Running s ∧ s.links.dividers = 64 :: [1]) ∧
    State.reset.ticks = { ct := false, dr := false, eng := Vector.replicate 4 false } ∧
    (after .tick State.reset).ticks.ct = true ∧
    (TimebaseRight State.reset ∧ Running State.reset ∧ 999 < State.reset.timebase.left ∧
      State.reset.timebase.left ≤ 1000) := by decide +kernel

/-- Operands out of range; a module that is not quiet; one whose supplier does not fit; one that passes, moving M9 to
D3. -/
theorem witness_SetModuleHandsTheRecordOver :
    (∀ ops ∈ ([[32, 0, 0, 0xFF], [0, 0, 4, 0xFF], [0, 64, 0, 0xFF], [0, 0, 0, 32], [0, 0, 0, 254]] : List (List Byte)),
      let r := req codeSetModule ops
      Serving (asks 0 r board) 0 r codeSetModule ∧
        (32 ≤ (r.byte 2).toNat ∨ 4 ≤ (r.byte 4).toNat ∨ 64 ≤ (r.byte 3).toNat ∨
          (32 ≤ (r.byte 5).toNat ∧ (r.byte 5).toNat ≠ 255))) ∧
    (let r := req codeSetModule [9, 0x31, 3, 7]
     let d : DirRecord := { present := true, wakeUsed := false, domain := 3, supplier := some 7, owner := 3 }
     let s := asks 0 r board
     Serving s 0 r codeSetModule ∧ (r.byte 2).toNat = (9 : Module).val ∧ (r.byte 4).toNat = d.domain.val ∧
      (r.byte 3).toNat / 16 = d.owner.val ∧ d.present = (r.byte 3).getLsbD 0 ∧ d.wakeUsed = (r.byte 3).getLsbD 1 ∧
      d.supplier = some 7 ∧ (r.byte 5).toNat = (7 : Module).val ∧
      (s.modAt 9).state = .off ∧ (s.modAt 9).stepping = false ∧ s.hasEntry (s.engineOf 9) 9 = false ∧
      (s.modAt 9).pendingRestart = none ∧ (∀ sl : Slot, s.ct.claimAt sl = none) ∧ s.ct.restartMark[(9 : Module)] = none ∧
      (7 : Module) < 9 ∧ s.ct.dir[(7 : Module)].present = true) ∧
    ((boardAt .running).modAt 7).state ≠ .off ∧
    ¬((9 : Module) < 7) ∧ (board.ct.dir[(9 : Module)].present = true ∧ board.ct.dir[(9 : Module)].supplier = some 7) := by
  decide +kernel

theorem witness_SettingsAreHandedOver :
    (∀ ops ∈ ([[32, 0, 1, 1, 1], [31, 0, 1, 1, 1], [7, 0, 0, 1, 1], [7, 0, 1, 1, 1], [7, 3, 255, 255, 255],
        [7, 4, 0, 1, 1], [7, 0, 1, 0, 1], [7, 0, 1, 1, 0]] : List (List Byte)),
      Serving (asks 0 (req codeSetModuleTiming ops) board) 0 (req codeSetModuleTiming ops) codeSetModuleTiming) ∧
    (∀ ops ∈ ([[0, 0, 1, 0, 1, 0], [4, 0, 1, 0, 1, 0], [1, 0, 0, 0, 1, 0], [1, 0, 1, 0, 1, 0],
        [3, 3, 255, 3, 255, 255], [3, 3, 255, 4, 0, 255]] : List (List Byte)),
      Serving (asks 0 (req codeSetDomain ops) board) 0 (req codeSetDomain ops) codeSetDomain) ∧
    ∀ ops ∈ ([[0, 0], [1, 0], [3, 1], [3, 2], [4, 0]] : List (List Byte)),
      Serving (asks 0 (req codeSetKeepOn ops) board) 0 (req codeSetKeepOn ops) codeSetKeepOn := by decide +kernel

/-- Every check of RESTART failing first, and one RESTART that passes. -/
theorem witness_RestartIsCheckedThenPosted :
    (∀ b ∈ ([32, 31, 7] : List Byte), ∀ p : Port,
      Serving (asks p (req codeRestart [b]) (boardAt .running)) p (req codeRestart [b]) codeRestart) ∧
    (boardAt .running).ct.dir[(31 : Module)].present = false ∧
    (let s := boardAt .running
     s.ct.dir[(7 : Module)].present = true ∧ s.ct.views[(7 : Module)].fault = false ∧
      s.domState s.ct.dir[(7 : Module)].domain = .on ∧ s.ct.restartMark[(7 : Module)] = none ∧
      (s.modAt 7).state = .running ∧
      (∀ k : Module, s.ct.dir[k].supplier = some 7 → (s.modAt k).state = .off ∧ (s.modAt k).stepping = false) ∧
      s.ct.lists[(7 : Module)] = []) ∧
    (board.modAt 7).state = .off ∧
    (((boardAt .running).onMod 9 (atRest .running)).modAt 9).state = .running ∧
    (claims.ct.lists[(7 : Module)] = [3, 5] ∧ claims.ct.claimAt 3 = some claimA ∧ claimA.holder ≠ 2 ∧
      claims.ct.dir[(7 : Module)].owner ≠ 2) := by decide +kernel

theorem witness_ClearsAreCheckedThenHandedOver :
    (∀ b ∈ ([32, 31, 7] : List Byte), ∀ p : Port,
      Serving (asks p (req codeClearModuleFault [b]) (boardAt .fault)) p (req codeClearModuleFault [b])
        codeClearModuleFault) ∧
    (((boardAt .fault).modAt 7).cause = some .ackTimeout ∧ (boardAt .fault).ct.dir[(7 : Module)].owner = 1) ∧
    (board.modAt 7).state ≠ .fault ∧
    (∀ b ∈ ([0, 1, 3, 4] : List Byte),
      Serving (asks 0 (req codeClearDomainFault [b]) (withD1 .fault board)) 0 (req codeClearDomainFault [b])
        codeClearDomainFault) ∧
    (withD1 .fault board).engines.doms[(0 : SwDom)].state = .fault ∧ board.pins.dpg[(0 : SwDom)] = false ∧
    board.engines.doms[(2 : SwDom)].state ≠ .fault := by decide +kernel

/-! ### Witnesses: notices and ticks at the claim table -/

theorem witness_LevelNoticeSettlesTheList :
    let s := claims.noticeCt 1 (.level 7 3 9)
    Running s ∧ s.links.toCt[(1 : Domain)] = .level 7 3 9 :: [] ∧ ListsRight s := by decide +kernel

theorem witness_RestartNoticesUngrantAndClear :
    (let s := claims.noticeCt 1 (.restartStart 7)
     Running s ∧ s.links.toCt[(1 : Domain)] = .restartStart 7 :: [] ∧ ListsRight s) ∧
    (claims.noticeCt 1 (.restartEnd 7)).links.toCt[(1 : Domain)] = .restartEnd 7 :: [] := by decide +kernel

theorem witness_FaultNoticeBreaksEveryClaim : ∀ c ∈ [ModCause.ackTimeout, .readyLost, .supplier, .domain],
    let s := claims.noticeCt 1 (.fault 7 c)
    Running s ∧ s.links.toCt[(1 : Domain)] = .fault 7 c :: [] ∧ ListsRight s ∧ CursorsRight s ∧
      ClaimedRight s := by decide +kernel

theorem witness_TheTickCountsEveryLease :
    let s := claims.onTicks fun t => { t with ct := true }
    Running s ∧ s.ticks.ct = true ∧ ListsRight s ∧ ClaimsRight s ∧ CursorsRight s ∧ s.ct.claimAt 3 = some claimA ∧
      claimA.state.live = true ∧ claimA.leaseLeft = some 1 := by decide +kernel

/-! ### Witnesses: the demand resolver -/

theorem witness_LevelsAndKeepOnReworkDemand :
    (let s := board.onLinks fun l => { l with claimedLevels := [(0, 1), (31, 3), (7, 3), (7, 0)] }
     Running s ∧ SupplierOrder s ∧ DemandRight s ∧
      s.links.claimedLevels = [(0, 1), (31, 3)] ++ (7, 3) :: [(7, 0)] ∧
      ∀ h ∈ ([(0, 1), (31, 3)] : List (Module × Level)), h.1 ≠ 7) ∧
    (let s := board.onLinks fun l => { l with keepOnToDr := [(0, false), (2, true)] }
     Running s ∧ SupplierOrder s ∧ DemandRight s ∧ s.links.keepOnToDr = [(0, false)] ++ (2, true) :: [] ∧
      ∀ h ∈ ([(0, false)] : List (SwDom × Bool)), h.1 ≠ 2) := by
  repeat' apply And.intro
  all_goals decide +kernel

/-- M7 shown in FAULT, with its dependent M9. -/
def shownFault : State :=
  board.onDr fun d => { d with views := d.views.set 7 { state := .fault, armed := false, woken := false } }

theorem witness_EngineNoticesReworkDemand :
    (let v : DrView := { state := .off, armed := false, woken := false }
     let s := shownFault.noticeDr 1 (.state 7 v)
     Running s ∧ SupplierOrder s ∧ DemandRight s ∧ s.links.toDr[(1 : Domain)] = .state 7 v :: [] ∧
      s.dr.views[(7 : Module)].state = .fault ∧ v.state ≠ .fault) ∧
    (let s := board.noticeDr 1 (.fault 7 .readyLost)
     Running s ∧ SupplierOrder s ∧ DemandRight s ∧ s.links.toDr[(1 : Domain)] = .fault 7 .readyLost :: [] ∧
      s.dr.views[(7 : Module)].state ≠ .fault) ∧
    (let s := shownFault.noticeDr 1 (.fault 7 .supplier)
     Running s ∧ s.links.toDr[(1 : Domain)] = .fault 7 .supplier :: [] ∧
      s.dr.views[(7 : Module)].state = .fault) := by
  repeat' apply And.intro
  all_goals decide +kernel

/-- M7 watched moves from D1 to D2; M9 is made absent; M9 joins D3 under a faulted supplier. -/
theorem witness_TheDirectoryHandOverReworksDemand :
    (let r : DirRecord := { record true none with domain := 2 }
     let s := watching.onLinks fun l => { l with modulesToDr := [(0, DirRecord.reset), (7, r)] }
     Running s ∧ SupplierOrder s ∧ DemandRight s ∧
      s.links.modulesToDr = [(0, DirRecord.reset)] ++ (7, r) :: [] ∧ r.present = true ∧
      s.dr.dir[(7 : Module)].domain ≠ r.domain ∧ s.dr.posted[(7 : Module)] ≠ .off) ∧
    (let s := shownFault.onLinks fun l =>
       { l with modulesToDr := [(9, { record false (some 7) with domain := 3 }), (9, DirRecord.reset)] }
     Running s ∧ SupplierOrder s ∧ DemandRight s ∧ s.dr.views[(7 : Module)].state = .fault ∧
      s.dr.dir[(7 : Module)].present = true ∧ supplierChain s.dr.dir 32 9 = [7]) := by
  repeat' apply And.intro
  all_goals decide +kernel

/-- A watched module with wake request; an unwatched one that strays; one that does not use wake. -/
theorem witness_WakeEdgesAreTakenByTheWatch :
    (let s := watching
     Running s ∧ Settled s (.mwake 7) ∧ s.pins.mwake[(7 : Module)] = false ∧ s.dr.watched[(7 : Module)] = true ∧
      SupplierOrder s ∧
      DemandRight s ∧ s.dr.eff[(7 : Module)] = 2) ∧
    (board.pins.mwake[(7 : Module)] = false ∧ board.dr.watched[(7 : Module)] = false ∧
      board.dr.dir[(7 : Module)].present = true ∧ board.dr.dir[(7 : Module)].wakeUsed = true ∧
      board.dr.views[(7 : Module)].state = .off) ∧
    board.dr.dir[(9 : Module)].wakeUsed = false ∧
    (let s := after (.mwakeRise 7) watching
     Running s ∧ Settled s (.mwake 7) ∧ s.pins.mwake[(7 : Module)] = true ∧ s.dr.watched[(7 : Module)] = true ∧
      s.dr.wakeReq[(7 : Module)] = true ∧ SupplierOrder s ∧ DemandRight s) := by
  repeat' apply And.intro
  all_goals decide +kernel

/-- The idle count of M7 at 1, and at 8. -/
theorem witness_TheTickCountsEveryIdleWindow :
    let t := after (.mwakeFall 7) (after (.mwakeRise 7) watching)
    let s := t.onTicks fun k => { k with dr := true }
    let u := ((s.onDr fun d => { d with idle := d.idle.set 7 (some 1) }))
    (Running s ∧ s.ticks.dr = true ∧ SupplierOrder s ∧ DemandRight s ∧ s.dr.idle[(7 : Module)] = some 8) ∧
      Running u ∧ u.ticks.dr = true ∧ SupplierOrder u ∧ DemandRight u ∧ u.dr.idle[(7 : Module)] = some 1 := by
  repeat' apply And.intro
  all_goals decide +kernel

/-! ### Witnesses: the domain engines -/

/-- A target for a module at rest, for one with a transition in flight, for one with an entry, and for one in FAULT;
a restart posting for each. -/
theorem witness_PostingsAreQueued :
    (∀ s ∈ [boardAt .paused, stepping [.hold, .resetRelease] .held .running none, boardAt .fault,
        queued [{ module := 7, target := .running, restart := none }] board],
      Running (posted (.target 7 .off) s) ∧
        (posted (.target 7 .off) s).links.drToEngine[(1 : Domain)] = .target 7 .off :: [] ∧
        (s.engineDir 7).present = true ∧ (s.engineDir 7).domain = 1) ∧
    ∀ s ∈ [boardAt .paused, stepping [.hold, .resetRelease] .held .running none, boardAt .fault,
        queued [{ module := 7, target := .running, restart := none }] board],
      Running (handed (.restart 7 3) s) ∧
        (handed (.restart 7 3) s).links.ctToEngine[(1 : Domain)] = .restart 7 3 :: [] ∧
        (s.engineDir 7).present = true ∧ (s.engineDir 7).domain = 1 := by decide +kernel

theorem witness_TheEngineTakesTheOldestEligibleEntry_busy :
    Running (stepping [.hold, .resetRelease] .held .running none) ∧
      (stepping [.hold, .resetRelease] .held .running none).engines.recs[(1 : Domain)].work ≠ .idle := by
  decide +kernel

/-- M9's entry waits on its supplier M7, whose own entry is eligible. -/
theorem witness_TheEngineTakesTheOldestEligibleEntry_oldest :
    let a : Entry := { module := 9, target := .running, restart := none }
    let b : Entry := { module := 7, target := .running, restart := none }
    let s := queued [a, b] board
    s.engines.recs[(1 : Domain)].work = .idle ∧
      (∀ x : SwDom, x.domain = 1 → s.engines.doms[x].state ≠ .off) ∧
      s.engines.recs[(1 : Domain)].queue = [a] ++ b :: [] ∧ s.eligible 1 a = false ∧ s.eligible 1 b = true := by
  decide +kernel

/-- A bring-up to RUNNING and one to PAUSED, from ON and from LINGER. -/
theorem witness_TheEngineTakesTheOldestEligibleEntry_up : ∀ tg ∈ [Target.paused, .running], ∀ d ∈ [DomState.on, .linger],
    let s := queued ([{ module := 9, target := .running, restart := none }] ++
      { module := 7, target := tg, restart := none } :: []) (withD1 d board)
    Running s ∧ s.engines.recs[(1 : Domain)].work = .idle ∧ (s.domState 1 = .on ∨ s.domState 1 = .linger) ∧
      s.eligible 1 { module := 9, target := .running, restart := none } = false ∧ (s.modAt 7).state = .off ∧
      (tg.state = .paused ∨ tg.state = .running) ∧ (s.engineDir 7).supplier = none := by decide +kernel

/-- A take-down of a RUNNING module with its dependent OFF, and a restart of it. -/
theorem witness_TheEngineTakesTheOldestEligibleEntry_down :
    ∀ x ∈ ([(.off, none), (.running, some 2)] : List (Target × Option Port)),
    let s := queued ([] ++ { module := 7, target := x.1, restart := x.2 } :: []) (boardAt .running)
    Running s ∧ s.engines.recs[(1 : Domain)].work = .idle ∧ s.domState 1 = .on ∧
      (s.modAt 7).state = .running ∧ (x.2 = none ↔ x.1 = .off) ∧
      ∀ k : Module, (s.engineDir k).supplier = some 7 → (s.modAt k).stepping = false ∧ (s.modAt k).state = .off := by
  decide +kernel

/-- A restart of a PAUSED module with its dependent OFF. -/
theorem witness_TheEngineTakesTheOldestEligibleEntry_pausedRestart :
    let s := queued ([] ++ { module := 7, target := .paused, restart := some 2 } :: []) (boardAt .paused)
    Running s ∧ s.engines.recs[(1 : Domain)].work = .idle ∧ s.domState 1 = .on ∧ (s.modAt 7).state = .paused ∧
      ∀ k : Module, (s.engineDir k).supplier = some 7 → (s.modAt k).up = false := by decide +kernel

/-- The three rows of one step, and a flag-only change of a PAUSED and of a RUNNING module; an engine with a move and
one with none. -/
theorem witness_TheEngineTakesTheOldestEligibleEntry_short :
    (((boardAt .paused).modAt 7).state = .paused ∧ Target.running.state = .running ∧
      Target.pausedArmed.state = .paused ∧ ((boardAt .paused).modAt 7).view ≠ Target.pausedArmed.view) ∧
    (((boardAt .running).modAt 7).state = .running ∧ Target.runningWoken.state = .running ∧
      ((boardAt .running).modAt 7).view ≠ Target.runningWoken.view) ∧
    Running board ∧ ((queued [{ module := 7, target := .running, restart := none }] board).engineMove 1).isSome = true ∧
    ((board.onDom 0 fun r => { r with need := true }).engineMove 1).isNone = true := by decide +kernel

/-- A restart toward OFF, of a module in OFF, and with a dependent up. -/
theorem witness_TheEngineTakesTheOldestEligibleEntry_failedRestart :
    Target.off = .off ∧ (board.modAt 7).state ≠ .paused ∧ (board.modAt 7).state ≠ .running ∧
      (((boardAt .running).onMod 9 (atRest .running)).modAt 9).up = true ∧
      (boardAt .running).engineDir 9 = record false (some 7) := by decide +kernel

theorem witness_TheEngineTakesTheOldestEligibleEntry_ramp :
    let s := queued [{ module := 7, target := .running, restart := none }]
      ((withD1 .off board).onDom 0 fun r => { r with need := true })
    Running s ∧ s.engines.recs[(SwDom.domain 0)].work = .idle ∧ s.engines.doms[(0 : SwDom)].state = .off ∧
      s.engines.doms[(0 : SwDom)].need = true ∧
      { module := 7, target := .running, restart := none } ∈ s.engines.recs[(SwDom.domain 0)].queue ∧
      s.pins.dpg[(0 : SwDom)] = false := by decide +kernel

/-- HOLD with RESET_RELEASE alone to come; a rise of MRDY; a fall that ends the path. -/
theorem witness_StepsCompleteInTheirEvent :
    (let tr : Transition := { module := 7, steps := [.hold, .resetRelease], target := .running, restart := some 3 }
     CompletesStep (stepping [.hold, .resetRelease] .held .running (some 3)) (.hold 1) 1 tr .hold [.resetRelease]) ∧
    (let tr : Transition := { module := 7, steps := [.clockOn, .hold, .resetRelease], target := .running, restart := none }
     CompletesStep (stepping [.clockOn, .hold, .resetRelease] .off .running none) (.mrdyRise 7) 1 tr .clockOn
      [.hold, .resetRelease] ∧ completesAtBegin true .hold = false) ∧
    (let tr : Transition := { module := 7, steps := [.clockOff], target := .off, restart := none }
     let s := (stepping [.clockOff] .held .off none).onPins fun p => { p with mrdy := p.mrdy.set 7 true }
     CompletesStep s (.mrdyFall 7) 1 tr .clockOff []) := by decide +kernel

/-- HOLD with a CLOCK_OFF to come where MRDY is low. -/
theorem witness_StepsCompleteInTheirEvent_atBegin : ∀ rest ∈ [[LineStep.clockOff], [.clockOff, .resetRelease]],
    let tr : Transition := { module := 7, steps := .hold :: rest, target := .paused, restart := none }
    let s := stepping (.hold :: rest) .held .paused none
    CompletesStep s (.hold 1) 1 tr .hold rest ∧ (afterInput s (.hold 1)).pins.mrdy[(7 : Module)] = false := by
  decide +kernel

theorem witness_ModulesEnterFault :
    (∀ st ∈ [LineStep.clockOn, .clockOff],
      let s := stepping [st] .held .off none
      Running s ∧
        s.inFlight 1 = some { module := 7, steps := [st], target := .off, restart := none } ∧
        (st = .clockOn ∨ st = .clockOff)) ∧
    (let s := (boardAt .running).onPins fun p => { p with mrdy := p.mrdy.set 7 true }
     Running s ∧ Settled s (.mrdy 7) ∧ s.pins.mrdy[(7 : Module)] = true ∧ s.engineOf 7 = 1 ∧ s.faultable 1 7 = true ∧
      s.inFlight 1 = none ∧ (s.modAt 7).clockOpen = true) ∧
    (let s := (boardAt .paused).onPins fun p => { p with mrdy := p.mrdy.set 7 true }
     s.pins.mrdy[(7 : Module)] = true ∧ s.inFlight 1 = none ∧ (s.modAt 7).clockOpen = false) ∧
    (board.pins.mrdy[(7 : Module)] = false ∧ board.inFlight (board.engineOf 7) = none) ∧
    (let s := posted (.supplierFault 9) board
     Running s ∧ s.links.drToEngine[(1 : Domain)] = .supplierFault 9 :: [] ∧ s.faultable 1 9 = true) ∧
    (posted (.supplierFault 7) (boardAt .fault)).faultable 1 7 = false := by decide +kernel

/-- Each clear on a module or domain it applies to, and on one it does not. -/
theorem witness_ClearsApplyTheReleaseRule :
    (let s := handed (.moduleClear 7) (boardAt .fault)
     Running s ∧ s.links.ctToEngine[(1 : Domain)] = .moduleClear 7 :: [] ∧ (s.modAt 7).state = .fault ∧
      (s.modAt 7).cause = some .ackTimeout) ∧
    ((handed (.moduleClear 7) board).modAt 7).state ≠ .fault ∧
    (let s := posted (.supplierClear 9) (board.onMod 9 (·.faulted .supplier))
     Running s ∧ s.links.drToEngine[(1 : Domain)] = .supplierClear 9 :: [] ∧
      (s.engineDir 9).present = true ∧ (s.engineDir 9).domain = 1 ∧ (s.modAt 9).state = .fault ∧
      (s.modAt 9).cause = some .supplier) ∧
    (let s := handed (.domainClear 0)
       (((withD1 .fault board).onMod 7 (·.faulted .readyLost)).onMod 9 (·.faulted .domain))
     Running s ∧ s.links.ctToEngine[SwDom.domain 0] = .domainClear 0 :: [] ∧
      s.engines.doms[(0 : SwDom)].state = .fault ∧ SupplierOrder s ∧ (s.modAt 9).cause = some .domain ∧
      s.engineOf 9 = SwDom.domain 0) ∧
    (handed (.domainClear 0) board).engines.doms[(0 : SwDom)].state ≠ .fault := by decide +kernel

/-- Timing and domain settings, and a SET MODULE hand-over of the quiet M9 from D1 to D2, to a D1 in FAULT, and of one
made absent. -/
theorem witness_SettingsReachTheEngines :
    (let s := handed (.setTiming 7 1023 255 255) board
     Running s ∧ s.links.ctToEngine[(1 : Domain)] = .setTiming 7 1023 255 255 :: []) ∧
    (let s := handed (.setDomain 0 1023 1 255) board
     Running s ∧ s.links.ctToEngine[SwDom.domain 0] = .setDomain 0 1023 1 255 :: []) ∧
    (let r : DirRecord := { record false (some 7) with domain := 2 }
     let s := (handed (.setModule 9 r 1) board).postEngine 2 (.setModule 9 r 1)
     Running s ∧ s.engineOf 9 = 1 ∧ s.links.ctToEngine[(1 : Domain)] = .setModule 9 r 1 :: [] ∧
      s.links.ctToEngine[r.domain] = .setModule 9 r 1 :: [] ∧ EnginesRight s ∧ (s.modAt 9).state = .off ∧
      (s.modAt 9).stepping = false ∧ s.hasEntry 1 9 = false) ∧
    (let r : DirRecord := record false none
     let s := ((withD1 .fault State.reset).postEngine 0 (.setModule 9 r 0)).postEngine 1 (.setModule 9 r 0)
     Running s ∧ s.engineOf 9 = 0 ∧ s.links.ctToEngine[(0 : Domain)] = .setModule 9 r 0 :: [] ∧
      s.links.ctToEngine[r.domain] = .setModule 9 r 0 :: [] ∧ EnginesRight s ∧ (s.modAt 9).state = .off ∧
      (s.modAt 9).stepping = false ∧ s.hasEntry 0 9 = false ∧ s.domState r.domain = .fault) ∧
    (let r : DirRecord := { record false none with present := false }
     let s := handed (.setModule 9 r 1) board
     Running s ∧ s.links.ctToEngine[r.domain] = .setModule 9 r 1 :: [] ∧ EnginesRight s) := by
  repeat' apply And.intro
  all_goals decide +kernel

/-- D1 ramping up, with edges of its DPG waiting among those of other pins. -/
def rampingWith (l : List Bool) (level : Bool) : State :=
  (((withD1 .rampUp board).onRec 1 fun g => { g with work := .ramp, timer := some 1 }).onDom 0 fun r =>
      { r with need := true }).onPins fun p =>
    { p with
      dpg := p.dpg.set 0 level
      edges := { pin := .dpg 1, up := false } :: l.map fun up => { pin := .dpg 0, up := up } }

/-- R102: a fall after a rise not yet taken is ignored, and the ramp waits for the next rise, which completes it. -/
theorem test_ramp_waits_for_the_next_rise :
    let s := after (.dpgFall 0) (rampingWith [true] true)
    (s.engines.doms[(0 : SwDom)].state, (after (.dpgRise 0) s).engines.doms[(0 : SwDom)].state) =
      (DomState.rampUp, DomState.on) := by decide +kernel

theorem witness_NeedAndPowerGoodMoveTheDomain_waiting :
    ∀ x ∈ [([true], true), ([true, false], false)],
      let s := rampingWith x.1 x.2
      Running s ∧ s.engines.doms[(0 : SwDom)].state = .rampUp ∧ s.pins.dpg[(0 : SwDom)] = x.2 ∧
        s.pins.edges.filter (fun g => decide (g.pin = .dpg 0)) = x.1.map (fun up => { pin := .dpg 0, up := up }) ∧
        (x.2 = false → { pin := .dpg 0, up := false } ∈ s.pins.edges) := by decide +kernel

theorem witness_NeedAndPowerGoodMoveTheDomain :
    (∀ b : Bool, ∀ d ∈ [DomState.on, .linger],
      Running (posted (.need b) (withD1 d board)) ∧
        (posted (.need b) (withD1 d board)).links.drToEngine[SwDom.domain 0] = .need b :: []) ∧
    (∀ d ∈ [DomState.rampUp, .on], (withD1 d board).pins.dpg[(0 : SwDom)] = false ∧ Running (withD1 d board) ∧
      Settled (withD1 d board) (.dpg 0)) ∧
    (let s := (queued [{ module := 7, target := .running, restart := none }]
       ((withD1 .off board).onDom 0 fun r => { r with need := true })).onPins fun p => { p with dpg := p.dpg.set 0 true }
     s.engines.recs[SwDom.domain 0].work = .idle ∧ s.engines.doms[(0 : SwDom)].state = .off ∧
      s.engines.doms[(0 : SwDom)].need = true ∧ s.pins.dpg[(0 : SwDom)] = true ∧
      { module := 7, target := .running, restart := none } ∈ s.engines.recs[SwDom.domain 0].queue) ∧
    (∀ n ∈ [0, 1, 255],
      let s := board.onDom 0 fun r => { r with linger := n }
      s.engines.recs[SwDom.domain 0].work = .idle ∧ s.engines.doms[(0 : SwDom)].state = .on ∧
        s.engines.doms[(0 : SwDom)].need = false ∧ s.engines.recs[SwDom.domain 0].queue = [] ∧
        ∀ m : Module, (s.modAt m).state = .off) ∧
    ∀ d ∈ [DomState.rampDown, .off, .rampUp, .fault],
      let s := (withD1 d board).onPins fun p => { p with dpg := p.dpg.set 0 true }
      Running s ∧ s.pins.dpg[(0 : SwDom)] = true ∧ s.engines.doms[(0 : SwDom)].state = d := by decide +kernel

/-- D1 ramping, with E1's work a ramp. -/
def ramping (d : DomState) : State := (withD1 d board).onRec 1 fun g => { g with work := .ramp, timer := some 1 }

/-- D1 powered, with power-good high. -/
def powered (d : DomState) : State := (withD1 d board).onPins fun p => { p with dpg := p.dpg.set 0 true }

/-- Each of the three causes, on engines that are right. -/
theorem witness_DomainsEnterFault :
    (Running (ramping .rampUp) ∧ (ramping .rampUp).engines.doms[(0 : SwDom)].state = .rampUp ∧
      EnginesRight (afterInput (ramping .rampUp) (.rampTimeout 0))) ∧
    (Running (ramping .rampDown) ∧ (ramping .rampDown).engines.doms[(0 : SwDom)].state = .rampDown ∧
      EnginesRight (afterInput (ramping .rampDown) (.offTimeout 0))) ∧
    ∀ d ∈ [DomState.on, .linger],
      Running (powered d) ∧ (powered d).pins.dpg[(0 : SwDom)] = true ∧ Settled (powered d) (.dpg 0) ∧
        (powered d).engines.doms[(0 : SwDom)].state = d ∧ EnginesRight (afterInput (powered d) (.dpgFall 0)) := by
  simp only [List.forall_mem_cons, List.not_mem_nil, false_implies, implies_true, and_true]
  repeat' apply And.intro
  all_goals decide +kernel

/-- A linger count of 255, of 2, and of 1 with DPG high and low; and none. -/
theorem witness_TheTickCountsTheLinger :
    (∀ n ∈ [1, 2, 255], ∀ b : Bool,
      let s := (((withD1 .linger board).onDom 0 fun r => { r with lingerCount := some n }).onTicks fun t =>
        { t with eng := t.eng.set 1 true }).onPins fun p => { p with dpg := p.dpg.set 0 b }
      Running s ∧ s.ticks.eng[SwDom.domain 0] = true ∧ s.engines.doms[(0 : SwDom)].state = .linger ∧
        s.engines.doms[(0 : SwDom)].lingerCount = some n ∧ s.pins.dpg[(0 : SwDom)] = b) ∧
    ∀ e : Domain,
      let s := board.onTicks fun t => { t with eng := t.eng.set e true }
      Running s ∧ s.ticks.eng[e] = true ∧ ∀ x : SwDom, s.engines.doms[x].lingerCount = none := by
  decide +kernel

/-! ### Witnesses: the machine as a whole -/

/-- A step from a state that keeps every condition, with a claim of another port standing. -/
theorem witness_EveryStepKeeps :
    let s : State := { asks 1 (req codeDetach []) claims with pending := [.detach] }
    ListsRight s ∧ CursorsRight s ∧ ClaimedRight s ∧ CountsRight s ∧ ChangeSetsRight s ∧ ClaimsRight s ∧
      AlertSetsRight s ∧ WaitingRight s ∧ TimebaseRight s ∧ ResetHeld s ∧ SupplierOrder s ∧ DemandRight s ∧
      EnginesRight s := by
  repeat' apply And.intro
  all_goals decide +kernel

/-- A step that frees a slot: its generation rises (R3). -/
theorem witness_GenerationsRiseOnlyAtFreeing :
    let s : State := { asks 2 (req codeRelease [5, 255]) claims with pending := [.release] }
    (∃ t, Machine.step s = .next t) ∧ s.pending.head? ≠ some .deviceResetAsserted ∧
      (s.ct.claimAt 5).isSome = true := ⟨⟨_, rfl⟩, by decide +kernel, by decide +kernel⟩

/-- A request of HP1 while HP2 holds a claim. -/
theorem witness_HostsTouchOnlyTheirOwnClaims :
    let s := asks 1 (req codeDetach []) claims
    requestCode .detach = some codeDetach ∧ Serving s 1 (req codeDetach []) codeDetach ∧ (1 : Port) ≠ 0 ∧
      s.ct.claimAt 5 = some claimB ∧ claimB.holder = 2 := by decide +kernel

end Sys2Proof.Tests
end

/-! SUPPORT for the claim table's statements. First the rules: where a browse cursor stands in its list, what each
operation of the claim table changes and leaves, and the conditions of Safety.lean on one claim table. -/

namespace Sys2Proof.Machine

/-! ### Where a cursor stands (R23, R24) -/

/-- A position in a list that holds it splits the list into what it has passed and what is to come. -/
theorem exists_split_of_position {l : List Slot} {after : Option Slot} (h : ∀ x ∈ after, x ∈ l) :
    ∃ passed rest, l = passed ++ rest ∧ after = passed.getLast? := by
  cases after with
  | none => exact ⟨[], l, rfl, rfl⟩
  | some sl =>
    obtain ⟨before, rest, rfl⟩ := List.append_of_mem (h sl rfl)
    exact ⟨before ++ [sl], rest, by simp, by simp⟩

theorem predecessor_eq_none {a b : Slot} {l : List Slot} (h : a ∉ l) : predecessor (b :: l) a = none := by
  induction l generalizing b with
  | nil => rfl
  | cons c l ih =>
    rw [List.mem_cons, not_or] at h
    rw [predecessor, if_neg (Ne.symm h.1), ih h.2]

/-- The claim before `a` in `before ++ a :: rest` is the last of `before` (R7). -/
theorem predecessor_split {before rest : List Slot} {a : Slot} (h : (before ++ a :: rest).Nodup) :
    predecessor (before ++ a :: rest) a = before.getLast? := by
  induction before with
  | nil => exact predecessor_eq_none (List.nodup_cons.1 h).1
  | cons b l ih =>
    have hl := (List.nodup_cons.1 h).2
    cases l with
    | nil => simp [predecessor]
    | cons c l =>
      have hc : c ≠ a := by rintro rfl; simp at hl
      have := ih hl
      simp only [List.cons_append] at this ⊢
      rw [predecessor, if_neg hc, this, List.getLast?_cons_cons]

/-- The claim to come next at a position is the head of what is to come (R23). -/
theorem Ct.following_split {ct : Ct} {m : Module} {passed rest : List Slot} (hl : ct.lists[m] = passed ++ rest)
    (hn : ct.lists[m].Nodup) : ct.following { module := m, after := passed.getLast? } = rest.head? := by
  unfold Ct.following
  rcases List.eq_nil_or_concat passed with rfl | ⟨before, a, rfl⟩
  · simp [hl]
  · have ha : a ∉ before := by
      rw [hl] at hn
      simp only [List.concat_eq_append, List.append_assoc] at hn
      exact fun h => (List.nodup_append.1 hn).2.2 a h a (by simp) rfl
    simp [hl, successor_split ha]

/-- When a slot leaves the list, a position moves to the last that it has passed and that remains (R24). -/
theorem retreat_split {m : Module} {sl : Slot} {passed rest : List Slot} (hn : (passed ++ rest).Nodup) :
    retreat m sl (predecessor (passed ++ rest) sl) (some { module := m, after := passed.getLast? }) =
      some { module := m, after := (passed.filter (· ≠ sl)).getLast? } := by
  unfold retreat
  rcases List.eq_nil_or_concat passed with rfl | ⟨before, a, rfl⟩
  · simp
  · simp only [List.concat_eq_append, List.append_assoc, List.singleton_append] at hn ⊢
    by_cases ha : a = sl
    · subst ha
      have hb : ∀ x ∈ before, x ≠ a := fun x hx => (List.nodup_append.1 hn).2.2 x hx a (by simp)
      rw [predecessor_split hn, List.filter_append, List.filter_eq_self.2 (by simpa using hb)]
      simp
    · simp [ha, List.filter_append]

/-- A cursor of another module does not move. -/
theorem retreat_ne {m k : Module} {sl : Slot} {before after : Option Slot} (h : k ≠ m) :
    retreat m sl before (some { module := k, after := after }) = some { module := k, after := after } := by
  simp [retreat, h]

/-- Where slots leave in one event, a position moves to the last that it has passed and that remains (R17, R24). -/
theorem cursorPast_split {ct : Ct} {m : Module} {passed rest : List Slot} (hl : ct.lists[m] = passed ++ rest)
    (hn : ct.lists[m].Nodup) (leaves : Slot → Bool) :
    cursorPast ct leaves { module := m, after := passed.getLast? } =
      { module := m, after := (passed.filter fun x => !leaves x).getLast? } := by
  unfold cursorPast
  rcases List.eq_nil_or_concat passed with rfl | ⟨before, a, rfl⟩
  · simp
  · rw [hl] at hn
    simp only [List.concat_eq_append, List.append_assoc, List.singleton_append] at hl hn ⊢
    have hb : ∀ x ∈ before, x ≠ a := fun x hx => (List.nodup_append.1 hn).2.2 x hx a (by simp)
    have ht : (before ++ a :: rest).takeWhile (fun x => decide (x ≠ a)) = before := by
      rw [List.takeWhile_append_of_pos (by simpa using hb)]; simp
    simp only [List.getLast?_append, List.getLast?_singleton, Option.some_or, hl, ht, List.filter_append]
    by_cases ha : leaves a = true <;> simp [ha]

/-! ### The conditions on one claim table -/

abbrev Ct.ListsRight (ct : Ct) : Prop :=
  ∀ m : Module, ct.lists[m].Nodup ∧ ∀ sl : Slot, sl ∈ ct.lists[m] ↔ ct.liveOn m sl = true

abbrev Ct.CursorsRight (ct : Ct) : Prop :=
  ∀ p : Port, ∀ c ∈ ct.ports[p].cursor, ∀ sl ∈ c.after, sl ∈ ct.lists[c.module]

abbrev Ct.ClaimedRight (ct : Ct) : Prop := ∀ m : Module, ct.claimed[m] = ct.worked m

abbrev Ct.CountsRight (ct : Ct) : Prop :=
  ∀ p : Port, ct.ports[p].count = ct.countClaims fun c => decide (c.holder = p)

abbrev Ct.ChangeSetsRight (ct : Ct) : Prop :=
  ∀ p : Port, ct.ports[p].changes.Pairwise (· < ·) ∧
    ∀ sl ∈ ct.ports[p].changes, (ct.claimAt sl).any (fun c => decide (c.holder = p)) = true

abbrev Ct.ClaimsRight (ct : Ct) : Prop := ∀ sl : Slot, ∀ c ∈ ct.claimAt sl, c.right

theorem Ct.liveOn_iff {ct : Ct} {m : Module} {sl : Slot} :
    ct.liveOn m sl = true ↔ ∃ c, ct.claimAt sl = some c ∧ c.state.live = true ∧ c.module = m := by
  unfold Ct.liveOn
  cases ct.claimAt sl <;> simp

/-- A listed slot holds a live claim of the list's module (R6). -/
theorem Ct.ListsRight.live_of_mem {ct : Ct} (h : ct.ListsRight) {m : Module} {sl : Slot} (hm : sl ∈ ct.lists[m]) :
    ∃ c, ct.claimAt sl = some c ∧ c.state.live = true ∧ c.module = m := Ct.liveOn_iff.1 (((h m).2 sl).1 hm)

/-! ### Slots that leave the lists -/

/-- The slots that `gone` names left the lists between `c` and `d`, and cursors moved back past them (R7, R24). -/
def Ct.LeftLists (gone : Slot → Bool) (c d : Ct) : Prop :=
  (∀ m : Module, d.lists[m] = c.lists[m].filter fun x => !gone x) ∧
    ∀ q : Port, d.ports[q].cursor = c.ports[q].cursor.map (cursorPast c gone)

/-- Claim lists without duplicates, and cursors on members of their lists. -/
structure Ct.Ordered (ct : Ct) : Prop where
  nodup : ∀ m : Module, ct.lists[m].Nodup
  cursors : ct.CursorsRight

theorem Ct.ListsRight.ordered {ct : Ct} (h : ct.ListsRight) (hc : ct.CursorsRight) : ct.Ordered := ⟨fun m => (h m).1, hc⟩

/-- A cursor that stands in its list splits it. -/
theorem Ct.Ordered.cursor_split {ct : Ct} (h : ct.Ordered) {q : Port} {cur : Cursor}
    (hq : ct.ports[q].cursor = some cur) :
    ∃ passed rest, ct.lists[cur.module] = passed ++ rest ∧ cur = { module := cur.module, after := passed.getLast? } := by
  obtain ⟨passed, rest, hl, ha⟩ := exists_split_of_position (h.cursors q cur hq)
  exact ⟨passed, rest, hl, by rw [← ha]⟩

theorem Ct.LeftLists.ordered {gone : Slot → Bool} {c d : Ct} (h : Ct.LeftLists gone c d) (hc : c.Ordered) : d.Ordered := by
  refine ⟨fun m => by rw [h.1 m]; exact (hc.nodup m).filter _, fun q cur hq sl hs => ?_⟩
  rw [h.2 q] at hq
  obtain ⟨old, ho, rfl⟩ := Option.map_eq_some_iff.1 hq
  obtain ⟨passed, rest, hl, he⟩ := hc.cursor_split ho
  rw [he, cursorPast_split hl (hc.nodup _)] at hs ⊢
  rw [h.1, hl, List.filter_append]
  exact List.mem_append_left _ (List.mem_of_getLast? hs)

theorem Ct.LeftLists.of_sameLists {c d : Ct} (h : SameLists c d) : Ct.LeftLists (fun _ => false) c d := by
  refine ⟨fun m => by simp [h.1], fun q => ?_⟩
  have : cursorPast c (fun _ => false) = id := by
    funext cur
    unfold cursorPast
    cases cur with
    | mk m after => cases after <;> rfl
  rw [h.2, this, Option.map_id_fun, id_eq]

/-- Leaving in turn is leaving together. -/
theorem Ct.LeftLists.trans {g h : Slot → Bool} {b c d : Ct} (hb : b.Ordered) (hg : Ct.LeftLists g b c)
    (hh : Ct.LeftLists h c d) : Ct.LeftLists (fun x => g x || h x) b d := by
  refine ⟨fun m => ?_, fun q => ?_⟩
  · rw [hh.1, hg.1, List.filter_filter]
    congr 1; funext x; rw [Bool.not_or, Bool.and_comm]
  · rw [hh.2, hg.2]
    cases hq : b.ports[q].cursor with
    | none => rfl
    | some cur =>
      obtain ⟨passed, rest, hl, he⟩ := hb.cursor_split hq
      have hc : c.lists[cur.module] = passed.filter (fun x => !g x) ++ rest.filter fun x => !g x := by
        rw [hg.1, hl, List.filter_append]
      rw [he]
      simp only [Option.map_some]
      rw [cursorPast_split hl (hb.nodup _), cursorPast_split hc ((hg.ordered hb).nodup _),
        cursorPast_split hl (hb.nodup _), List.filter_filter]
      simp only [Bool.not_or, Bool.and_comm]

/-- Only which listed slots leave counts. -/
theorem Ct.LeftLists.congr {g h : Slot → Bool} {c d : Ct} (hc : c.Ordered) (hl : Ct.LeftLists g c d)
    (he : ∀ m : Module, ∀ x ∈ c.lists[m], g x = h x) : Ct.LeftLists h c d := by
  refine ⟨fun m => ?_, fun q => ?_⟩
  · rw [hl.1]; exact List.filter_congr fun x hx => by rw [he m x hx]
  · rw [hl.2]
    cases hq : c.ports[q].cursor with
    | none => rfl
    | some cur =>
      obtain ⟨passed, rest, hp, hcur⟩ := hc.cursor_split hq
      have : passed.filter (fun x => !g x) = passed.filter fun x => !h x :=
        List.filter_congr fun x hx => by rw [he cur.module x (by rw [hp]; simp [hx])]
      rw [hcur]
      simp only [Option.map_some]
      rw [cursorPast_split hp (hc.nodup _), cursorPast_split hp (hc.nodup _), this]

/-- A slot that only module `m`'s list may hold leaves it (R7, R24). -/
theorem Ct.LeftLists.of_leftList {c d : Ct} {m : Module} {sl : Slot} (hc : c.Ordered)
    (ho : ∀ k : Module, k ≠ m → sl ∉ c.lists[k]) (h : LeftList c d m sl) : Ct.LeftLists (fun x => decide (x = sl)) c d := by
  obtain ⟨hm, hk, hq⟩ := h
  have stays : ∀ {k : Module} {l : List Slot}, k ≠ m → (∀ x ∈ l, x ∈ c.lists[k]) →
      l.filter (fun x => !decide (x = sl)) = l := fun hne hx =>
    List.filter_eq_self.2 fun x hxl => by
      have : x ≠ sl := fun e => ho _ hne (e ▸ hx x hxl)
      simp [this]
  refine ⟨fun k => ?_, fun q => ?_⟩
  · by_cases hkm : k = m
    · subst hkm; rw [hm]; simp
    · rw [hk k hkm, stays hkm fun _ hx => hx]
  · rw [hq q]
    cases hcur : c.ports[q].cursor with
    | none => simp [movedBack]
    | some cur =>
      obtain ⟨k, after⟩ := cur
      obtain ⟨passed, rest, hl, he⟩ := hc.cursor_split hcur
      have hn := hc.nodup k
      rw [he, Option.map_some, cursorPast_split hl hn]
      change retreat m sl (predecessor c.lists[m] sl) _ = _
      obtain rfl | hkm := eq_or_ne k m
      · rw [hl] at hn ⊢
        rw [retreat_split hn]; simp
      · rw [retreat_ne hkm, stays hkm fun x hx => by rw [hl]; exact List.mem_append_left _ hx]

/-- A slot in no list leaves none. -/
theorem Ct.LeftLists.of_same {c d : Ct} {sl : Slot} (hc : c.Ordered) (ho : ∀ k : Module, sl ∉ c.lists[k])
    (h : SameLists c d) : Ct.LeftLists (fun x => decide (x = sl)) c d := by
  refine (Ct.LeftLists.of_sameLists h).congr hc fun m x hx => ?_
  have : x ≠ sl := fun e => ho m (e ▸ hx)
  simp [this]

end Sys2Proof.Machine


namespace Sys2Proof.Machine

/-! ### Which parts an operation leaves -/

/-- What the claim table holds beside slots, lists and port items is as it was. -/
abbrev Ct.SameBase (c d : Ct) : Prop := SameRecords c d ∧ d.claimed = c.claimed

theorem Ct.SameBase.refl (c : Ct) : c.SameBase c := ⟨⟨rfl, rfl, rfl, rfl⟩, rfl⟩

theorem Ct.SameBase.trans {b c d : Ct} (h : b.SameBase c) (k : c.SameBase d) : b.SameBase d := by
  obtain ⟨⟨h1, h2, h3, h4⟩, h5⟩ := h
  obtain ⟨⟨k1, k2, k3, k4⟩, k5⟩ := k
  exact ⟨⟨k1.trans h1, k2.trans h2, k3.trans h3, k4.trans h4⟩, k5.trans h5⟩

/-- What each step of a fold leaves, the fold leaves. -/
theorem Ct.SameBase.foldl {op : Ct → Slot → Ct} (h : ∀ (ct : Ct) (sl : Slot), ct.SameBase (op ct sl)) (l : List Slot)
    (ct : Ct) : ct.SameBase (l.foldl op ct) :=
  foldl_keeps (ct.SameBase ·) op (fun _ _ hb => hb.trans (h _ _)) l ct (.refl ct)

theorem slot_map_congr {r : SlotRec} {f g : Claim → Claim} (h : ∀ c ∈ r.claim, f c = g c) :
    ({ r with claim := r.claim.map f } : SlotRec) = { r with claim := r.claim.map g } := by rw [Option.map_congr h]

theorem slot_map_same {r : SlotRec} {f : Claim → Claim} (h : ∀ c ∈ r.claim, f c = c) :
    ({ r with claim := r.claim.map f } : SlotRec) = r := by
  rw [Option.map_congr (g := id) h, Option.map_id_fun, id_eq]

theorem Ct.claimAt_of_slots {c d : Ct} {x : Slot} (h : d.slots[x] = c.slots[x]) : d.claimAt x = c.claimAt x :=
  congrArg SlotRec.claim h

/-! ### A slot is freed (R16) -/

/-- What freeing a slot does to the lists and to each port's items. -/
theorem Ct.freeSlot_lists {ct : Ct} {sl : Slot} {c : Claim} (h : ct.claimAt sl = some c) :
    (ct.freeSlot sl).lists = if c.state.live then modifyAt ct.lists c.module (·.filter (· ≠ sl)) else ct.lists := by
  unfold Ct.freeSlot
  rw [h]
  dsimp only
  split <;> rfl

theorem Ct.freeSlot_ports {ct : Ct} {sl : Slot} {c : Claim} (h : ct.claimAt sl = some c) (q : Port) :
    (ct.freeSlot sl).ports[q] =
      { count := if q = c.holder then ct.ports[q].count - 1 else ct.ports[q].count
        quota := ct.ports[q].quota
        changes := if q = c.holder then ct.ports[q].changes.filter (· ≠ sl) else ct.ports[q].changes
        cursor :=
          if c.state.live then retreat c.module sl (predecessor ct.lists[c.module] sl) ct.ports[q].cursor
          else ct.ports[q].cursor } := by
  unfold Ct.freeSlot
  rw [h]
  dsimp only
  rw [Ct.onPort_ports, modifyAt_get]
  by_cases hq : q = c.holder <;> by_cases hl : c.state.live = true <;> simp [hq, hl]

theorem Ct.freeSlot_sameBase (ct : Ct) (sl : Slot) : ct.SameBase (ct.freeSlot sl) := by
  unfold Ct.freeSlot
  cases ct.claimAt sl with
  | none => exact .refl ct
  | some c => dsimp only; split <;> exact .refl ct

theorem leftList_of_retreat {c d : Ct} {m : Module} {sl : Slot}
    (hl : d.lists = modifyAt c.lists m (·.filter (· ≠ sl)))
    (hq : ∀ q : Port, d.ports[q].cursor = retreat m sl (predecessor c.lists[m] sl) c.ports[q].cursor) :
    LeftList c d m sl :=
  ⟨by rw [hl, modifyAt_get_self], fun k hk => by rw [hl, modifyAt_get_ne _ _ hk], hq⟩

/-- Freeing a slot that holds a claim frees it (R16). -/
theorem Ct.freeSlot_freed {ct : Ct} {sl : Slot} {c : Claim} (h : ct.claimAt sl = some c) :
    Freed ct (ct.freeSlot sl) sl c := by
  refine ⟨?_, fun x hx => ?_, ?_, ?_, fun q => ?_, fun q hq => ?_, ?_⟩
  · rw [Ct.freeSlot_slots, if_pos ⟨rfl, by rw [h]; rfl⟩]
  · rw [Ct.freeSlot_slots, if_neg fun e => hx e.1]
  · rw [Ct.freeSlot_ports h]; exact if_pos rfl
  · rw [Ct.freeSlot_ports h]; exact if_pos rfl
  · rw [Ct.freeSlot_ports h]
  · rw [Ct.freeSlot_ports h, if_neg hq, if_neg hq]; exact ⟨rfl, rfl⟩
  · split
    · rename_i hl
      exact leftList_of_retreat (by rw [Ct.freeSlot_lists h, if_pos hl]) fun q => by rw [Ct.freeSlot_ports h, if_pos hl]
    · rename_i hl
      exact ⟨by rw [Ct.freeSlot_lists h, if_neg hl], fun q => by rw [Ct.freeSlot_ports h, if_neg hl]⟩

/-! ### A claim dies (R15) -/

theorem Ct.die_free {ct : Ct} {sl : Slot} (h : ct.claimAt sl = none) (st : ClaimState) (marked : Bool) :
    ct.die sl st marked = ct := by unfold Ct.die; rw [h]

theorem Ct.die_ports {ct : Ct} {sl : Slot} {c : Claim} (h : ct.claimAt sl = some c) (st : ClaimState) (marked : Bool)
    (q : Port) :
    (ct.die sl st marked).ports[q] =
      { ct.ports[q] with
        changes :=
          if q = c.holder ∧ marked = true then insertSlot sl ct.ports[q].changes else ct.ports[q].changes
        cursor := retreat c.module sl (predecessor ct.lists[c.module] sl) ct.ports[q].cursor } := by
  unfold Ct.die
  rw [h]
  dsimp only
  by_cases hm : marked = true
  · by_cases hq : q = c.holder <;> simp [hm, hq, Fin.val_inj]
  · simp [hm]

theorem Ct.die_sameBase (ct : Ct) (sl : Slot) (st : ClaimState) (marked : Bool) : ct.SameBase (ct.die sl st marked) := by
  unfold Ct.die
  cases ct.claimAt sl with
  | none => exact .refl ct
  | some c => dsimp only; split <;> exact .refl ct

theorem Ct.die_leftList {ct : Ct} {sl : Slot} {c : Claim} (h : ct.claimAt sl = some c) (st : ClaimState)
    (marked : Bool) : LeftList ct (ct.die sl st marked) c.module sl :=
  leftList_of_retreat (Ct.die_lists h st marked) fun q => by rw [Ct.die_ports h]

theorem Ct.die_sameCounts (ct : Ct) (sl : Slot) (st : ClaimState) (marked : Bool) :
    SameCounts ct (ct.die sl st marked) := by
  intro q
  cases h : ct.claimAt sl with
  | none => rw [Ct.die_free h]; exact ⟨rfl, rfl⟩
  | some c => rw [Ct.die_ports h]; exact ⟨rfl, rfl⟩

/-- A claim that dies marked is marked in its holder's change set, and in no other (R15, R20). -/
theorem Ct.mem_die_changes (ct : Ct) (sl : Slot) (st : ClaimState) (q : Port) (x : Slot) :
    x ∈ (ct.die sl st true).ports[q].changes ↔
      x ∈ ct.ports[q].changes ∨ x = sl ∧ ∃ c ∈ ct.claimAt sl, c.holder = q := by
  cases h : ct.claimAt sl with
  | none => rw [Ct.die_free h]; simp
  | some c =>
    rw [Ct.die_ports h]
    by_cases hq : q = c.holder
    · simp [hq, mem_insertSlot, or_comm]
    · simp [hq, Ne.symm hq]

theorem Ct.die_claimAt (ct : Ct) (sl : Slot) (st : ClaimState) (marked : Bool) (x : Slot) :
    (ct.die sl st marked).claimAt x =
      if x = sl then (ct.claimAt x).map fun c => { c with state := st, leaseLeft := none } else ct.claimAt x := by
  unfold Ct.claimAt
  rw [Ct.die_slots]
  split <;> rfl

/-! ### A claim is restated: another state, and a mark (R11, R12) -/

theorem Ct.onClaim_congr {ct : Ct} {sl : Slot} {f g : Claim → Claim} (h : ∀ c ∈ ct.claimAt sl, f c = g c) :
    ct.onClaim sl f = ct.onClaim sl g := by
  have : ct.slots[sl].claim.map f = ct.slots[sl].claim.map g := Option.map_congr h
  unfold Ct.onClaim modifyAt
  dsimp only
  rw [this]

/-- The claim in slot `sl` becomes `f` of it, and is marked, where `turns` holds of it. -/
def Ct.restate (turns : Claim → Bool) (f : Claim → Claim) (ct : Ct) (sl : Slot) : Ct :=
  match ct.claimAt sl with
  | none => ct
  | some c => if turns c then (ct.onClaim sl f).mark c.holder sl else ct

/-- A level notice at `x` turns the claim (R11). -/
def turnsAt (x : Level) (c : Claim) : Bool :=
  decide ((c.state = .pending ∧ c.level ≤ x) ∨ (c.state = .granted ∧ x < c.level))

/-- The claim that a level notice with generation `g` turned (R11). -/
def Claim.turned (g : Byte) (c : Claim) : Claim :=
  if c.state = .pending then { c with state := .granted, genSeen := some g } else { c with state := .pending }

theorem Ct.settleClaim_eq (x : Level) (g : Byte) (ct : Ct) (sl : Slot) :
    Ct.settleClaim x g ct sl = ct.restate (turnsAt x) (Claim.turned g) sl := by
  unfold Ct.settleClaim Ct.restate
  cases h : ct.claimAt sl with
  | none => rfl
  | some c =>
    have turn {f : Claim → Claim} (hf : f c = c.turned g) : ct.onClaim sl f = ct.onClaim sl (Claim.turned g) :=
      Ct.onClaim_congr fun d hd => by rw [h] at hd; cases hd; exact hf
    dsimp only
    by_cases hp : c.state = .pending ∧ c.level ≤ x
    · rw [if_pos hp, if_pos (by simp [turnsAt, hp]), turn (by simp [Claim.turned, hp.1])]
    · by_cases hg : c.state = .granted ∧ x < c.level
      · rw [if_neg hp, if_pos hg, if_pos (by simp [turnsAt, hg]), turn (by simp [Claim.turned, hg.1])]
      · rw [if_neg hp, if_neg hg, if_neg (by simp only [turnsAt, decide_eq_true_eq, not_or]; exact ⟨hp, hg⟩)]

theorem Ct.unsettleClaim_eq (ct : Ct) (sl : Slot) :
    ct.unsettleClaim sl = ct.restate (fun c => decide (c.state = .granted)) (fun c => { c with state := .pending }) sl := by
  unfold Ct.unsettleClaim Ct.restate
  cases ct.claimAt sl with
  | none => rfl
  | some c => simp only [decide_eq_true_eq]

section
variable (turns : Claim → Bool) (f : Claim → Claim) (ct : Ct) (sl : Slot)

theorem Ct.restate_cases :
    (∃ c, ct.claimAt sl = some c ∧ turns c = true ∧ ct.restate turns f sl = (ct.onClaim sl f).mark c.holder sl) ∨
      ((∀ c ∈ ct.claimAt sl, turns c = false) ∧ ct.restate turns f sl = ct) := by
  unfold Ct.restate
  cases ct.claimAt sl with
  | none => simp
  | some c => by_cases ht : turns c = true <;> simp [ht]

theorem Ct.restate_slots (x : Slot) :
    (ct.restate turns f sl).slots[x] =
      if x = sl then { ct.slots[x] with claim := ct.slots[x].claim.map fun c => if turns c then f c else c }
      else ct.slots[x] := by
  obtain ⟨c, h, ht, he⟩ | ⟨hc, he⟩ := Ct.restate_cases turns f ct sl
  · rw [he, Ct.mark_slots, Ct.onClaim_slots, modifyAt_get]
    split
    · subst_vars
      exact slot_map_congr fun d hd => by rw [show d = c from Option.some.inj (hd.symm.trans h), if_pos ht]
    · rfl
  · rw [he]
    split
    · subst_vars
      exact (slot_map_same fun d hd => if_neg (by rw [hc d hd]; exact Bool.false_ne_true)).symm
    · rfl

theorem Ct.restate_claimAt (x : Slot) :
    (ct.restate turns f sl).claimAt x =
      if x = sl then (ct.claimAt x).map fun c => if turns c then f c else c else ct.claimAt x := by
  unfold Ct.claimAt
  rw [Ct.restate_slots]
  split <;> rfl

theorem Ct.restate_sameBase : ct.SameBase (ct.restate turns f sl) := by
  obtain ⟨_, _, _, he⟩ | ⟨_, he⟩ := Ct.restate_cases turns f ct sl
  · rw [he]; exact .refl ct
  · rw [he]; exact .refl ct

theorem Ct.restate_ports (q : Port) :
    (ct.restate turns f sl).ports[q] =
      { ct.ports[q] with
        changes :=
          if (ct.claimAt sl).any (fun c => decide (c.holder = q) && turns c) then insertSlot sl ct.ports[q].changes
          else ct.ports[q].changes } := by
  obtain ⟨c, h, ht, he⟩ | ⟨hc, he⟩ := Ct.restate_cases turns f ct sl
  · rw [he, h, Ct.mark_ports, Ct.onClaim_ports, modifyAt_get]
    by_cases hq : q = c.holder
    · simp [hq, ht]
    · simp [hq, Ne.symm hq]
  · have : (ct.claimAt sl).any (fun c => decide (c.holder = q) && turns c) = false := by
      cases h : ct.claimAt sl with
      | none => rfl
      | some c => simp [hc c h]
    rw [he, this]; rfl

theorem Ct.mem_restate_changes (q : Port) (x : Slot) :
    x ∈ (ct.restate turns f sl).ports[q].changes ↔
      x ∈ ct.ports[q].changes ∨ x = sl ∧ ∃ c ∈ ct.claimAt sl, c.holder = q ∧ turns c = true := by
  rw [Ct.restate_ports]
  cases ct.claimAt sl with
  | none => simp
  | some c =>
    by_cases h : c.holder = q ∧ turns c = true
    · simp [h, mem_insertSlot, or_comm]
    · have : (decide (c.holder = q) && turns c) = false := by simpa using h
      simp [this, h]

/-- A restated claim stays in its list, and no cursor moves. -/
theorem Ct.restate_sameLists : SameLists ct (ct.restate turns f sl) := by
  refine ⟨?_, fun q => by rw [Ct.restate_ports]⟩
  obtain ⟨_, _, _, he⟩ | ⟨_, he⟩ := Ct.restate_cases turns f ct sl
  · rw [he]; rfl
  · rw [he]

theorem Ct.restate_sameCounts : SameCounts ct (ct.restate turns f sl) := fun q => by
  rw [Ct.restate_ports]; exact ⟨rfl, rfl⟩

end

/-! ### The tick lowers or ends a lease (R50, R51) -/

/-- The claim lapses at the tick. -/
def lapsesAt (c : Claim) : Bool := c.state.live && c.leaseLeft.any fun n => decide (n ≤ 1)

/-- What the tick makes of a claim (R50, R51). -/
def Claim.ticked (c : Claim) : Claim :=
  if lapsesAt c then { c with state := .lapsed, leaseLeft := none }
  else if c.state.live then { c with leaseLeft := c.leaseLeft.map (· - 1) } else c

/-- The three things the tick does to a slot: it ends the claim's lease, lowers it, or leaves the slot. -/
theorem Ct.countDown_cases (ct : Ct) (sl : Slot) :
    (∃ c, ct.claimAt sl = some c ∧ lapsesAt c = true ∧ ct.countDown sl = ct.die sl .lapsed true) ∨
      (∃ c n, ct.claimAt sl = some c ∧ lapsesAt c = false ∧ c.state.live = true ∧ c.leaseLeft = some n ∧ 1 < n ∧
        ct.countDown sl = ct.onClaim sl fun c => { c with leaseLeft := some (n - 1) }) ∨
      ((∀ c ∈ ct.claimAt sl, lapsesAt c = false ∧ c.ticked = c) ∧ ct.countDown sl = ct) := by
  unfold Ct.countDown
  cases h : ct.claimAt sl with
  | none => simp
  | some c =>
    dsimp only
    cases hn : c.leaseLeft with
    | none =>
      have hc : c.ticked = c := by
        cases c; subst hn; simp [Claim.ticked, lapsesAt]
      exact .inr (.inr ⟨by rintro d ⟨⟩; exact ⟨by simp [lapsesAt, hn], hc⟩, rfl⟩)
    | some n =>
      dsimp only
      by_cases hl : c.state.live = true
      · by_cases h1 : n ≤ 1
        · exact .inl ⟨c, rfl, by simp [lapsesAt, hl, hn, h1], by simp [hl, h1]⟩
        · exact .inr (.inl ⟨c, n, rfl, by simp [lapsesAt, hn, h1], hl, hn, not_le.1 h1, by simp [hl, h1]⟩)
      · exact .inr (.inr ⟨by rintro d ⟨⟩; simp [Claim.ticked, lapsesAt, hl], by simp [hl]⟩)

theorem Ct.countDown_slots (ct : Ct) (sl x : Slot) :
    (ct.countDown sl).slots[x] =
      if x = sl then { ct.slots[x] with claim := ct.slots[x].claim.map Claim.ticked } else ct.slots[x] := by
  obtain ⟨c, h, hl, he⟩ | ⟨c, n, h, hl, hlive, hn, _, he⟩ | ⟨hc, he⟩ := ct.countDown_cases sl
  · rw [he, Ct.die_slots]
    split
    · subst_vars
      exact slot_map_congr fun d hd => by
        rw [show d = c from Option.some.inj (hd.symm.trans h), Claim.ticked, if_pos hl]
    · rfl
  · rw [he, Ct.onClaim_slots, modifyAt_get]
    split
    · subst_vars
      exact slot_map_congr fun d hd => by
        rw [show d = c from Option.some.inj (hd.symm.trans h), Claim.ticked, hl, hn]; simp [hlive]
    · rfl
  · rw [he]
    split
    · subst_vars
      exact (slot_map_same fun d hd => (hc d hd).2).symm
    · rfl

theorem Ct.countDown_sameBase (ct : Ct) (sl : Slot) : ct.SameBase (ct.countDown sl) := by
  obtain ⟨_, _, _, he⟩ | ⟨_, _, _, _, _, _, _, he⟩ | ⟨_, he⟩ := ct.countDown_cases sl <;> rw [he]
  · exact Ct.die_sameBase ..
  · exact .refl ct
  · exact .refl ct

theorem Ct.mem_countDown_changes (ct : Ct) (sl : Slot) (q : Port) (x : Slot) :
    x ∈ (ct.countDown sl).ports[q].changes ↔
      x ∈ ct.ports[q].changes ∨ x = sl ∧ ∃ c ∈ ct.claimAt sl, c.holder = q ∧ lapsesAt c = true := by
  obtain ⟨c, h, hl, he⟩ | ⟨c, n, h, hl, _, _, _, he⟩ | ⟨hc, he⟩ := ct.countDown_cases sl
  · rw [he, Ct.mem_die_changes, h]; simp [hl]
  · rw [he, h]; simp [hl]
  · rw [he]
    refine ⟨.inl, ?_⟩
    rintro (hx | ⟨-, c, hm, -, hl⟩)
    · exact hx
    · rw [(hc c hm).1] at hl; cases hl

end Sys2Proof.Machine


namespace Sys2Proof.Machine

/-! ### Lists and cursors, operation by operation (R6, R23, R24) -/

/-- The claim lists are right, and the cursors on them. -/
abbrev Ct.Tracked (ct : Ct) : Prop := ct.ListsRight ∧ ct.CursorsRight

theorem Ct.Tracked.ordered {ct : Ct} (h : ct.Tracked) : ct.Ordered := h.1.ordered h.2

theorem Ct.ListsRight.not_mem_of_free {ct : Ct} (h : ct.ListsRight) {sl : Slot} (hs : ct.claimAt sl = none) (k : Module) :
    sl ∉ ct.lists[k] := fun hk => by
  obtain ⟨c, hc, _⟩ := h.live_of_mem hk
  rw [hs] at hc; cases hc

theorem Ct.ListsRight.not_mem_of_dead {ct : Ct} (h : ct.ListsRight) {sl : Slot} {c : Claim} (hs : ct.claimAt sl = some c)
    (hd : c.state.live = false) (k : Module) : sl ∉ ct.lists[k] := fun hk => by
  obtain ⟨d, hd', hl, _⟩ := h.live_of_mem hk
  rw [hs] at hd'; cases hd'
  rw [hd] at hl; cases hl

theorem Ct.ListsRight.not_mem_of_ne {ct : Ct} (h : ct.ListsRight) {sl : Slot} {c : Claim} (hs : ct.claimAt sl = some c)
    (k : Module) (hk : k ≠ c.module) : sl ∉ ct.lists[k] := fun hm => by
  obtain ⟨d, hd, _, he⟩ := h.live_of_mem hm
  rw [hs] at hd; cases hd
  exact hk he.symm

/-- Where slots leave the lists just as their claims end, the lists stay right. -/
theorem Ct.Tracked.leave {gone : Slot → Bool} {c d : Ct} (h : c.Tracked) (hl : Ct.LeftLists gone c d)
    (hv : ∀ (m : Module) (x : Slot), d.liveOn m x = (c.liveOn m x && !gone x)) : d.Tracked := by
  have ho := hl.ordered h.ordered
  refine ⟨fun m => ⟨ho.nodup m, fun x => ?_⟩, ho.cursors⟩
  rw [hl.1 m, List.mem_filter, hv, Bool.and_eq_true, (h.1 m).2 x]

theorem Ct.die_leftLists {ct : Ct} (h : ct.Tracked) (sl : Slot) (st : ClaimState) (marked : Bool) :
    Ct.LeftLists (fun x => decide (x = sl)) ct (ct.die sl st marked) := by
  cases hs : ct.claimAt sl with
  | none => rw [Ct.die_free hs]; exact .of_same h.ordered (h.1.not_mem_of_free hs) ⟨rfl, fun _ => rfl⟩
  | some c => exact .of_leftList h.ordered (h.1.not_mem_of_ne hs) (Ct.die_leftList hs st marked)

theorem Ct.freeSlot_leftLists {ct : Ct} (h : ct.Tracked) (sl : Slot) :
    Ct.LeftLists (fun x => decide (x = sl)) ct (ct.freeSlot sl) := by
  cases hs : ct.claimAt sl with
  | none => rw [Ct.freeSlot_free hs]; exact .of_same h.ordered (h.1.not_mem_of_free hs) ⟨rfl, fun _ => rfl⟩
  | some c =>
    obtain ⟨-, -, -, -, -, -, hl⟩ := Ct.freeSlot_freed hs
    split at hl
    · exact .of_leftList h.ordered (h.1.not_mem_of_ne hs) hl
    · rename_i hd
      exact .of_same h.ordered (h.1.not_mem_of_dead hs (Bool.not_eq_true _ ▸ hd)) hl

theorem Ct.die_tracked {ct : Ct} (h : ct.Tracked) (sl : Slot) {st : ClaimState} (hst : st.live = false) (marked : Bool) :
    (ct.die sl st marked).Tracked := by
  refine h.leave (Ct.die_leftLists h sl st marked) fun m x => ?_
  unfold Ct.liveOn
  rw [Ct.die_claimAt]
  by_cases hx : x = sl
  · cases ct.claimAt x <;> simp [hx, hst]
  · simp [hx]

theorem Ct.freeSlot_claimAt (ct : Ct) (sl x : Slot) :
    (ct.freeSlot sl).claimAt x = if x = sl then none else ct.claimAt x := by
  cases h : ct.claimAt sl with
  | none =>
    rw [Ct.freeSlot_free h]
    split
    · subst_vars; exact h
    · rfl
  | some c =>
    obtain ⟨hf, hk, -⟩ := Ct.freeSlot_freed h
    split
    · subst_vars; exact congrArg SlotRec.claim hf
    · exact Ct.claimAt_of_slots (hk x ‹_›)

theorem Ct.freeSlot_tracked {ct : Ct} (h : ct.Tracked) (sl : Slot) : (ct.freeSlot sl).Tracked := by
  refine h.leave (Ct.freeSlot_leftLists h sl) fun m x => ?_
  unfold Ct.liveOn
  rw [Ct.freeSlot_claimAt]
  by_cases hx : x = sl <;> simp [hx]

/-! ### Claims that change in their lists -/

/-- Lists and cursors stand, and no claim's liveness, module or level changed. -/
structure Ct.Restated (c d : Ct) : Prop where
  lists : SameLists c d
  live : ∀ (m : Module) (x : Slot), d.liveOn m x = c.liveOn m x
  levels : ∀ x : Slot, d.levelAt x = c.levelAt x

theorem Ct.Restated.of_same {c d : Ct} (hs : d.slots = c.slots) (hl : SameLists c d) : c.Restated d := by
  refine ⟨hl, fun m x => ?_, fun x => ?_⟩
  · unfold Ct.liveOn Ct.claimAt; rw [hs]
  · unfold Ct.levelAt Ct.claimAt; rw [hs]

theorem Ct.Restated.trans {b c d : Ct} (h : b.Restated c) (k : c.Restated d) : b.Restated d :=
  ⟨⟨k.lists.1.trans h.lists.1, fun q => (k.lists.2 q).trans (h.lists.2 q)⟩, fun m x => (k.live m x).trans (h.live m x),
    fun x => (k.levels x).trans (h.levels x)⟩

theorem Ct.Restated.worked {c d : Ct} (h : c.Restated d) (m : Module) : d.worked m = c.worked m := by
  unfold Ct.worked
  rw [h.lists.1, funext h.levels]

theorem Ct.Restated.tracked {c d : Ct} (h : c.Restated d) (hc : c.Tracked) : d.Tracked := by
  refine ⟨fun m => ?_, fun q cur hq sl hs => ?_⟩
  · rw [h.lists.1]
    exact ⟨(hc.1 m).1, fun x => by rw [h.live]; exact (hc.1 m).2 x⟩
  · rw [h.lists.1]
    exact hc.2 q cur (h.lists.2 q ▸ hq) sl hs

/-- Claims that keep liveness, module and level are restated. -/
theorem Ct.Restated.of_claims {c d : Ct} {f : Slot → Claim → Claim} (hl : SameLists c d)
    (hd : ∀ x : Slot, d.claimAt x = (c.claimAt x).map (f x))
    (hf : ∀ (x : Slot), ∀ a ∈ c.claimAt x, (f x a).state.live = a.state.live ∧ (f x a).module = a.module ∧ (f x a).level = a.level) :
    c.Restated d := by
  refine ⟨hl, fun m x => ?_, fun x => ?_⟩
  · unfold Ct.liveOn
    rw [hd]
    cases h : c.claimAt x with
    | none => rfl
    | some a => obtain ⟨h1, h2, -⟩ := hf x a h; simp [h1, h2]
  · unfold Ct.levelAt
    rw [hd]
    cases h : c.claimAt x with
    | none => rfl
    | some a => exact (hf x a h).2.2

theorem Ct.restate_restated (turns : Claim → Bool) {f : Claim → Claim} (ct : Ct) (sl : Slot)
    (hf : ∀ a, turns a = true → (f a).state.live = a.state.live ∧ (f a).module = a.module ∧ (f a).level = a.level) :
    ct.Restated (ct.restate turns f sl) := by
  refine .of_claims (f := fun x c => if x = sl ∧ turns c = true then f c else c) (Ct.restate_sameLists ..) (fun x => ?_)
    fun x a _ => ?_
  · rw [Ct.restate_claimAt]
    by_cases hx : x = sl <;> simp [hx]
  · split
    · rename_i h; exact hf a h.2
    · exact ⟨rfl, rfl, rfl⟩

theorem turned_keeps {x : Level} (g : Byte) {a : Claim} (h : turnsAt x a = true) :
    (a.turned g).state.live = a.state.live ∧ (a.turned g).module = a.module ∧ (a.turned g).level = a.level := by
  simp only [turnsAt, decide_eq_true_eq] at h
  unfold Claim.turned
  obtain ⟨hp, -⟩ | ⟨hg, -⟩ := h
  · rw [if_pos hp, hp]; exact ⟨rfl, rfl, rfl⟩
  · rw [if_neg (by rw [hg]; decide), hg]; exact ⟨rfl, rfl, rfl⟩

theorem Ct.settleClaim_restated (x : Level) (g : Byte) (ct : Ct) (sl : Slot) :
    ct.Restated (Ct.settleClaim x g ct sl) := by
  rw [Ct.settleClaim_eq]; exact Ct.restate_restated _ ct sl fun a h => turned_keeps g h

theorem Ct.unsettleClaim_restated (ct : Ct) (sl : Slot) : ct.Restated (ct.unsettleClaim sl) := by
  rw [Ct.unsettleClaim_eq]
  exact Ct.restate_restated _ ct sl fun a h => ⟨by rw [of_decide_eq_true h]; rfl, rfl, rfl⟩

theorem Ct.onClaim_restated {ct : Ct} {sl : Slot} {f : Claim → Claim}
    (hf : ∀ a ∈ ct.claimAt sl, (f a).state.live = a.state.live ∧ (f a).module = a.module ∧ (f a).level = a.level) :
    ct.Restated (ct.onClaim sl f) := by
  refine .of_claims (f := fun x c => if x = sl then f c else c) ⟨rfl, fun _ => rfl⟩ (fun x => ?_) fun x a ha => ?_
  · rw [Ct.claimAt_onClaim]
    by_cases hx : x = sl <;> simp [hx]
  · by_cases hx : x = sl
    · subst hx; simpa using hf a ha
    · simp [hx]

theorem Ct.countDown_tracked {ct : Ct} (h : ct.Tracked) (sl : Slot) : (ct.countDown sl).Tracked := by
  obtain ⟨_, _, _, he⟩ | ⟨_, n, _, _, _, _, _, he⟩ | ⟨_, he⟩ := ct.countDown_cases sl <;> rw [he]
  · exact Ct.die_tracked h sl rfl true
  · have hr := Ct.onClaim_restated (ct := ct) (sl := sl) (f := fun c => { c with leaseLeft := some (n - 1) })
      fun _ _ => ⟨rfl, rfl, rfl⟩
    exact hr.tracked h
  · exact h

theorem Ct.countDown_leftLists {ct : Ct} (h : ct.Tracked) (sl : Slot) :
    Ct.LeftLists (fun x => decide (x = sl) && (ct.claimAt sl).any lapsesAt) ct (ct.countDown sl) := by
  obtain ⟨c, hs, hl, he⟩ | ⟨c, n, hs, hl, _, _, _, he⟩ | ⟨hc, he⟩ := ct.countDown_cases sl <;> rw [he]
  · simpa [hs, hl] using Ct.die_leftLists h sl .lapsed true
  · simpa only [hs, Option.any_some, hl, Bool.and_false] using
      Ct.LeftLists.of_sameLists (c := ct) (d := ct.onClaim sl _) ⟨rfl, fun _ => rfl⟩
  · have : (ct.claimAt sl).any lapsesAt = false := by
      cases hs : ct.claimAt sl with
      | none => rfl
      | some c => exact (hc c hs).1
    simpa only [this, Bool.and_false] using Ct.LeftLists.of_sameLists (c := ct) ⟨rfl, fun _ => rfl⟩

/-! ### Folds over slots: what each slot, change set and list ends with -/

theorem foldl_slots {op : Ct → Slot → Ct} {g : SlotRec → SlotRec}
    (h : ∀ (ct : Ct) (a x : Slot), (op ct a).slots[x] = if x = a then g ct.slots[x] else ct.slots[x])
    {l : List Slot} (hl : l.Nodup) (ct : Ct) (x : Slot) :
    (l.foldl op ct).slots[x] = if x ∈ l then g ct.slots[x] else ct.slots[x] := by
  induction l generalizing ct with
  | nil => simp
  | cons a l ih =>
    obtain ⟨ha, hl⟩ := List.nodup_cons.1 hl
    rw [List.foldl_cons, ih hl, h]
    by_cases hx : x = a
    · subst hx; simp [ha]
    · simp [hx]

/-- Every step of a fold over distinct slots finds its slot as it was. -/
theorem foldl_changes {op : Ct → Slot → Ct} {turns : Claim → Bool}
    (hs : ∀ (ct : Ct) (a x : Slot), x ≠ a → (op ct a).slots[x] = ct.slots[x])
    (h : ∀ (ct : Ct) (a : Slot) (q : Port) (x : Slot), x ∈ (op ct a).ports[q].changes ↔
      x ∈ ct.ports[q].changes ∨ x = a ∧ ∃ c ∈ ct.claimAt a, c.holder = q ∧ turns c = true)
    {l : List Slot} (hl : l.Nodup) (ct : Ct) (q : Port) (x : Slot) :
    x ∈ (l.foldl op ct).ports[q].changes ↔
      x ∈ ct.ports[q].changes ∨ x ∈ l ∧ ∃ c ∈ ct.claimAt x, c.holder = q ∧ turns c = true := by
  induction l generalizing ct with
  | nil => simp
  | cons a l ih =>
    obtain ⟨ha, hl⟩ := List.nodup_cons.1 hl
    rw [List.foldl_cons, ih hl, h, or_assoc]
    refine or_congr_right ?_
    by_cases hx : x = a
    · subst hx; simp [ha]
    · rw [Ct.claimAt_of_slots (hs ct a x hx)]; simp [hx]

theorem foldl_leftLists {op : Ct → Slot → Ct} {ends : Option Claim → Bool}
    (hk : ∀ (ct : Ct) (a : Slot), ct.Tracked → (op ct a).Tracked)
    (hs : ∀ (ct : Ct) (a x : Slot), x ≠ a → (op ct a).slots[x] = ct.slots[x])
    (h : ∀ (ct : Ct) (a : Slot), ct.Tracked →
      Ct.LeftLists (fun x => decide (x = a) && ends (ct.claimAt a)) ct (op ct a))
    {l : List Slot} (hl : l.Nodup) {ct : Ct} (hc : ct.Tracked) :
    Ct.LeftLists (fun x => decide (x ∈ l) && ends (ct.claimAt x)) ct (l.foldl op ct) := by
  induction l generalizing ct with
  | nil => simpa using Ct.LeftLists.of_sameLists (c := ct) ⟨rfl, fun _ => rfl⟩
  | cons a l ih =>
    obtain ⟨ha, hl⟩ := List.nodup_cons.1 hl
    refine ((h ct a hc).trans hc.ordered (ih hl (hk ct a hc))).congr hc.ordered fun m x _ => ?_
    by_cases hx : x = a
    · subst hx; simp [ha]
    · rw [Ct.claimAt_of_slots (hs ct a x hx)]; simp [hx]

end Sys2Proof.Machine


namespace Sys2Proof.Machine

/-! ### Claims that change in place: holders, generations and counts stay (R3, R18, R20) -/

/-- No slot is filled or freed, and change sets take only slots that their ports hold. -/
structure Ct.InPlace (c d : Ct) : Prop where
  gens : ∀ x : Slot, d.slots[x].gen = c.slots[x].gen
  holders : ∀ x : Slot, (d.claimAt x).map (·.holder) = (c.claimAt x).map (·.holder)
  counts : SameCounts c d
  ascending : ∀ q : Port, c.ports[q].changes.Pairwise (· < ·) → d.ports[q].changes.Pairwise (· < ·)
  changes : ∀ (q : Port), ∀ x ∈ d.ports[q].changes,
    x ∈ c.ports[q].changes ∨ (c.claimAt x).map (·.holder) = some q

theorem Ct.InPlace.of_same {c d : Ct} (hs : d.slots = c.slots) (hp : d.ports = c.ports) : c.InPlace d := by
  refine ⟨fun x => by rw [hs], fun x => ?_, fun q => by rw [hp]; exact ⟨rfl, rfl⟩, fun q h => by rw [hp]; exact h,
    fun q x h => .inl (by rw [hp] at h; exact h)⟩
  unfold Ct.claimAt
  rw [hs]

theorem Ct.InPlace.trans {b c d : Ct} (h : b.InPlace c) (k : c.InPlace d) : b.InPlace d where
  gens x := (k.gens x).trans (h.gens x)
  holders x := (k.holders x).trans (h.holders x)
  counts q := ⟨(k.counts q).1.trans (h.counts q).1, (k.counts q).2.trans (h.counts q).2⟩
  ascending q ha := k.ascending q (h.ascending q ha)
  changes q x hx := (k.changes q x hx).elim (h.changes q x) fun hh => .inr ((h.holders x).symm.trans hh)

theorem Ct.InPlace.foldl {op : Ct → Slot → Ct} (h : ∀ (ct : Ct) (sl : Slot), ct.InPlace (op ct sl)) (l : List Slot)
    (ct : Ct) : ct.InPlace (l.foldl op ct) :=
  foldl_keeps (ct.InPlace ·) op (fun _ _ hb => hb.trans (h _ _)) l ct (.of_same rfl rfl)

/-- A FREE slot stays FREE, and no other. -/
theorem Ct.InPlace.isSome {c d : Ct} (h : c.InPlace d) (x : Slot) : (d.claimAt x).isSome = (c.claimAt x).isSome := by
  simpa using congrArg Option.isSome (h.holders x)

theorem any_holder (o : Option Claim) (q : Port) :
    o.any (fun c => decide (c.holder = q)) = decide (o.map (·.holder) = some q) := by cases o <;> simp

theorem holders_of_claims {c d : Ct} {f : Slot → Claim → Claim} (hf : ∀ x a, (f x a).holder = a.holder)
    (h : ∀ x : Slot, d.claimAt x = (c.claimAt x).map (f x)) (x : Slot) :
    (d.claimAt x).map (·.holder) = (c.claimAt x).map (·.holder) := by
  rw [h, Option.map_map]; congr 1; funext a; exact hf x a

theorem Ct.restate_inPlace (turns : Claim → Bool) {f : Claim → Claim} (hf : ∀ a, (f a).holder = a.holder) (ct : Ct)
    (sl : Slot) : ct.InPlace (ct.restate turns f sl) where
  gens x := by rw [Ct.restate_slots]; split <;> rfl
  holders := holders_of_claims (f := fun x a => if x = sl ∧ turns a = true then f a else a)
    (fun x a => by split; exacts [hf a, rfl]) fun x => by
      rw [Ct.restate_claimAt]
      by_cases hx : x = sl <;> simp [hx]
  counts := Ct.restate_sameCounts _ _ ct sl
  ascending q h := by
    rw [Ct.restate_ports]
    dsimp only
    split
    · exact insertSlot_ascending h
    · exact h
  changes q x hx := by
    rcases (Ct.mem_restate_changes ..).1 hx with h | ⟨rfl, c, hc, hq, -⟩
    · exact .inl h
    · right; rw [hc, ← hq]; rfl

theorem Ct.die_inPlace (ct : Ct) (sl : Slot) (st : ClaimState) (marked : Bool) : ct.InPlace (ct.die sl st marked) where
  gens := Ct.die_gen ct sl st marked
  holders := holders_of_claims (f := fun x a => if x = sl then { a with state := st, leaseLeft := none } else a)
    (fun x a => by split <;> rfl) fun x => by
      rw [Ct.die_claimAt]
      by_cases hx : x = sl <;> simp [hx]
  counts := Ct.die_sameCounts ct sl st marked
  ascending q h := by
    cases hs : ct.claimAt sl with
    | none => rw [Ct.die_free hs]; exact h
    | some c =>
      rw [Ct.die_ports hs]
      dsimp only
      split
      · exact insertSlot_ascending h
      · exact h
  changes q x hx := by
    cases hs : ct.claimAt sl with
    | none => rw [Ct.die_free hs] at hx; exact .inl hx
    | some c =>
      rw [Ct.die_ports hs] at hx
      dsimp only at hx
      split at hx
      · rename_i hq
        rcases mem_insertSlot.1 hx with rfl | hx
        · right; rw [hs, hq.1]; rfl
        · exact .inl hx
      · exact .inl hx

theorem Ct.onClaim_inPlace {f : Claim → Claim} (hf : ∀ a, (f a).holder = a.holder) (ct : Ct) (sl : Slot) :
    ct.InPlace (ct.onClaim sl f) where
  gens x := by rw [Ct.onClaim_slots, modifyAt_get]; split <;> rfl
  holders := holders_of_claims (f := fun x a => if x = sl then f a else a)
    (fun x a => by split; exacts [hf a, rfl]) fun x => by
      rw [Ct.claimAt_onClaim]
      by_cases hx : x = sl <;> simp [hx]
  counts _ := ⟨rfl, rfl⟩
  ascending _ h := h
  changes _ _ h := .inl h

theorem Ct.settleClaim_inPlace (x : Level) (g : Byte) (ct : Ct) (sl : Slot) : ct.InPlace (Ct.settleClaim x g ct sl) := by
  rw [Ct.settleClaim_eq]
  exact Ct.restate_inPlace _ (fun a => by unfold Claim.turned; split <;> rfl) ct sl

theorem Ct.unsettleClaim_inPlace (ct : Ct) (sl : Slot) : ct.InPlace (ct.unsettleClaim sl) := by
  rw [Ct.unsettleClaim_eq]; exact Ct.restate_inPlace _ (f := fun c => { c with state := .pending }) (fun _ => rfl) ct sl

theorem Ct.countDown_inPlace (ct : Ct) (sl : Slot) : ct.InPlace (ct.countDown sl) := by
  obtain ⟨_, _, _, he⟩ | ⟨_, n, _, _, _, _, _, he⟩ | ⟨_, he⟩ := ct.countDown_cases sl <;> rw [he]
  · exact Ct.die_inPlace ..
  · exact Ct.onClaim_inPlace (f := fun c => { c with leaseLeft := some (n - 1) }) (fun _ => rfl) ct sl
  · exact .of_same rfl rfl

/-! ### Counts and change sets (R18, R20) -/

theorem Ct.countClaims_congr {c d : Ct} {which : Claim → Bool}
    (h : ∀ x : Slot, (d.claimAt x).any which = (c.claimAt x).any which) : d.countClaims which = c.countClaims which := by
  unfold Ct.countClaims
  rw [List.filter_congr fun x _ => h x]

/-- One slot more passes the test. -/
theorem Ct.countClaims_succ {c d : Ct} {which : Claim → Bool} {sl : Slot} (hc : (c.claimAt sl).any which = false)
    (hd : (d.claimAt sl).any which = true) (h : ∀ x : Slot, x ≠ sl → d.claimAt x = c.claimAt x) :
    d.countClaims which = c.countClaims which + 1 := by
  have hn : allSlots.Nodup := List.nodup_finRange 128
  unfold Ct.countClaims
  obtain ⟨before, rest, hl⟩ := List.append_of_mem (mem_allSlots sl)
  rw [hl] at hn ⊢
  have hne : ∀ x ∈ before ++ rest, x ≠ sl := fun x hx e => by
    subst e
    obtain ⟨-, h2, h3⟩ := List.nodup_append.1 hn
    rcases List.mem_append.1 hx with hx | hx
    · exact h3 x hx x (by simp) rfl
    · exact (List.nodup_cons.1 h2).1 hx
  have part : ∀ l : List Slot, (∀ x ∈ l, x ∈ before ++ rest) →
      l.filter (fun x => (d.claimAt x).any which) = l.filter fun x => (c.claimAt x).any which := fun l hx =>
    List.filter_congr fun x hxl => by rw [h x (hne x (hx x hxl))]
  simp only [List.filter_append, List.filter_cons, hc, hd, if_true, part before fun x hx => List.mem_append_left _ hx,
    part rest fun x hx => List.mem_append_right _ hx, List.length_append, List.length_cons]
  simp only [Bool.false_eq_true, if_false]
  omega

theorem Ct.InPlace.countsRight {c d : Ct} (h : c.InPlace d) (hc : c.CountsRight) : d.CountsRight := fun p => by
  rw [(h.counts p).1, hc p]
  exact (Ct.countClaims_congr fun x => by rw [any_holder, any_holder, h.holders x]).symm

theorem Ct.InPlace.changeSetsRight {c d : Ct} (h : c.InPlace d) (hc : c.ChangeSetsRight) : d.ChangeSetsRight := fun p => by
  refine ⟨h.ascending p (hc p).1, fun x hx => ?_⟩
  rw [any_holder, h.holders x, ← any_holder]
  rcases h.changes p x hx with h1 | h1
  · exact (hc p).2 x h1
  · rw [any_holder, h1]; exact decide_eq_true rfl

theorem Ct.freeSlot_countsRight {ct : Ct} (h : ct.CountsRight) (sl : Slot) : (ct.freeSlot sl).CountsRight := by
  cases hs : ct.claimAt sl with
  | none => rw [Ct.freeSlot_free hs]; exact h
  | some c =>
    intro p
    rw [Ct.freeSlot_ports hs]
    dsimp only
    by_cases hp : p = c.holder
    · rw [if_pos hp, h p, Ct.countClaims_succ (c := ct.freeSlot sl) (sl := sl)]
      · rfl
      · rw [Ct.freeSlot_claimAt, if_pos rfl]; rfl
      · rw [hs]; simp [hp]
      · intro x hx; rw [Ct.freeSlot_claimAt, if_neg hx]
    · rw [if_neg hp, h p]
      refine Ct.countClaims_congr fun x => ?_
      rw [Ct.freeSlot_claimAt]
      by_cases hx : x = sl
      · subst hx; simp [hs, Ne.symm hp]
      · rw [if_neg hx]

theorem Ct.freeSlot_changeSetsRight {ct : Ct} (h : ct.ChangeSetsRight) (sl : Slot) :
    (ct.freeSlot sl).ChangeSetsRight := by
  cases hs : ct.claimAt sl with
  | none => rw [Ct.freeSlot_free hs]; exact h
  | some c =>
    intro p
    rw [Ct.freeSlot_ports hs]
    dsimp only
    obtain ⟨hasc, hheld⟩ := h p
    by_cases hp : p = c.holder
    · rw [if_pos hp]
      refine ⟨hasc.filter _, fun x hx => ?_⟩
      obtain ⟨hx, hne⟩ := List.mem_filter.1 hx
      rw [Ct.freeSlot_claimAt, if_neg (of_decide_eq_true hne)]
      exact hheld x hx
    · rw [if_neg hp]
      refine ⟨hasc, fun x hx => ?_⟩
      have hne : x ≠ sl := by
        rintro rfl
        have := hheld x hx
        rw [hs] at this
        exact hp (of_decide_eq_true this).symm
      rw [Ct.freeSlot_claimAt, if_neg hne]
      exact hheld x hx

/-! ### Claims' fields (Table 1-1, R49) -/

theorem Ct.ClaimsRight.of_claims {c d : Ct} {f : Slot → Claim → Claim} (h : c.ClaimsRight)
    (hd : ∀ x : Slot, d.claimAt x = (c.claimAt x).map (f x))
    (hf : ∀ (x : Slot), ∀ a ∈ c.claimAt x, a.right → (f x a).right) : d.ClaimsRight := fun x a ha => by
  rw [hd] at ha
  obtain ⟨b, hb, rfl⟩ := Option.map_eq_some_iff.1 ha
  exact hf x b hb (h x b hb)

theorem right_of_dead {c : Claim} {st : ClaimState} (hst : st.live = false) (h : c.right) :
    ({ c with state := st, leaseLeft := none } : Claim).right := by
  obtain ⟨h1, h2, -⟩ := h
  refine ⟨h1, h2, by simp [hst], by simp, fun he => ?_⟩
  rw [show st = .granted from he] at hst; cases hst

theorem right_of_lowered {c : Claim} {n : Nat} (hn : c.leaseLeft = some n) (h1 : 1 < n) (h : c.right) :
    ({ c with leaseLeft := some (n - 1) } : Claim).right := by
  obtain ⟨hl, hlen, hiff, hrange, hg⟩ := h
  have hr := hrange n hn
  rw [hn] at hiff
  refine ⟨hl, hlen, hiff, ?_, hg⟩
  rintro k ⟨⟩
  exact ⟨by omega, (Nat.sub_le n 1).trans hr.2⟩

theorem right_of_turned {x : Level} (g : Byte) {c : Claim} (ht : turnsAt x c = true) (h : c.right) :
    (c.turned g).right := by
  obtain ⟨hl, hlen, hiff, hrange, -⟩ := h
  have hk := (turned_keeps g ht).1
  unfold Claim.turned at hk ⊢
  split at hk
  · rw [if_pos ‹_›]; exact ⟨hl, hlen, by rw [hk]; exact hiff, hrange, fun _ => rfl⟩
  · rw [if_neg ‹_›]; exact ⟨hl, hlen, by rw [hk]; exact hiff, hrange, fun e => by cases e⟩

theorem right_of_ungranted {c : Claim} (hg : c.state = .granted) (h : c.right) :
    ({ c with state := .pending } : Claim).right := by
  obtain ⟨hl, hlen, hiff, hrange, -⟩ := h
  rw [hg] at hiff
  exact ⟨hl, hlen, hiff, hrange, fun e => by cases e⟩

theorem Ct.die_claimsRight {ct : Ct} (h : ct.ClaimsRight) (sl : Slot) {st : ClaimState} (hst : st.live = false)
    (marked : Bool) : (ct.die sl st marked).ClaimsRight := by
  refine h.of_claims (f := fun x a => if x = sl then { a with state := st, leaseLeft := none } else a) (fun x => ?_)
    fun x a _ ha => ?_
  · rw [Ct.die_claimAt]
    by_cases hx : x = sl <;> simp [hx]
  · split
    · exact right_of_dead hst ha
    · exact ha

theorem Ct.restate_claimsRight {ct : Ct} (h : ct.ClaimsRight) {turns : Claim → Bool} {f : Claim → Claim}
    (hf : ∀ a, turns a = true → a.right → (f a).right) (sl : Slot) : (ct.restate turns f sl).ClaimsRight := by
  refine h.of_claims (f := fun x a => if x = sl ∧ turns a = true then f a else a) (fun x => ?_) fun x a _ ha => ?_
  · rw [Ct.restate_claimAt]
    by_cases hx : x = sl <;> simp [hx]
  · split
    · exact hf a (by simp_all) ha
    · exact ha

theorem Ct.onClaim_claimsRight {ct : Ct} (h : ct.ClaimsRight) {sl : Slot} {f : Claim → Claim}
    (hf : ∀ a ∈ ct.claimAt sl, a.right → (f a).right) : (ct.onClaim sl f).ClaimsRight := by
  refine h.of_claims (f := fun x a => if x = sl then f a else a) (fun x => ?_) fun x a hx ha => ?_
  · rw [Ct.claimAt_onClaim]
    by_cases hx : x = sl <;> simp [hx]
  · split
    · subst_vars; exact hf a hx ha
    · exact ha

theorem Ct.countDown_claimsRight {ct : Ct} (h : ct.ClaimsRight) (sl : Slot) : (ct.countDown sl).ClaimsRight := by
  obtain ⟨_, _, _, he⟩ | ⟨c, n, hs, _, _, hn, h1, he⟩ | ⟨_, he⟩ := ct.countDown_cases sl <;> rw [he]
  · exact Ct.die_claimsRight h sl rfl true
  · refine Ct.onClaim_claimsRight h fun a ha hr => ?_
    rw [hs] at ha; cases ha
    exact right_of_lowered hn h1 hr
  · exact h

theorem Ct.freeSlot_claimsRight {ct : Ct} (h : ct.ClaimsRight) (sl : Slot) : (ct.freeSlot sl).ClaimsRight :=
  fun x c hc => by
    rw [Ct.freeSlot_claimAt] at hc
    split at hc
    · cases hc
    · exact h x c hc

/-- Counts, change sets and claims are right. -/
abbrev Ct.Accounted (ct : Ct) : Prop := ct.CountsRight ∧ ct.ChangeSetsRight ∧ ct.ClaimsRight

theorem Ct.InPlace.accounted {c d : Ct} (h : c.InPlace d) (hc : c.Accounted) (hd : d.ClaimsRight) : d.Accounted :=
  ⟨h.countsRight hc.1, h.changeSetsRight hc.2.1, hd⟩

theorem Ct.freeSlot_accounted {ct : Ct} (h : ct.Accounted) (sl : Slot) : (ct.freeSlot sl).Accounted :=
  ⟨Ct.freeSlot_countsRight h.1 sl, Ct.freeSlot_changeSetsRight h.2.1 sl, Ct.freeSlot_claimsRight h.2.2 sl⟩

end Sys2Proof.Machine


namespace Sys2Proof.Machine

/-! ### Whole events: notices, the tick, freeing (R10 to R17, R50) -/

theorem Ct.takeLevel_inPlace (ct : Ct) (m : Module) (x : Level) (g : Byte) : ct.InPlace (ct.takeLevel m x g) :=
  foldl_keeps (ct.InPlace ·) _ (fun b a hb => hb.trans (Ct.settleClaim_inPlace x g b a)) _ _ (.of_same rfl rfl)

theorem Ct.takeLevel_restated (ct : Ct) (m : Module) (x : Level) (g : Byte) : ct.Restated (ct.takeLevel m x g) :=
  foldl_keeps (ct.Restated ·) _ (fun b a hb => hb.trans (Ct.settleClaim_restated x g b a)) _ _
    (.of_same rfl ⟨rfl, fun _ => rfl⟩)

theorem Ct.takeLevel_claimsRight {ct : Ct} (h : ct.ClaimsRight) (m : Module) (x : Level) (g : Byte) :
    (ct.takeLevel m x g).ClaimsRight :=
  foldl_keeps Ct.ClaimsRight _ (fun b a hb => by
    rw [Ct.settleClaim_eq]; exact Ct.restate_claimsRight hb (fun _ ht hr => right_of_turned g ht hr) a) _ _ h

theorem Ct.takeLevel_claimed (ct : Ct) (m : Module) (x : Level) (g : Byte) : (ct.takeLevel m x g).claimed = ct.claimed :=
  (Ct.SameBase.foldl (fun b a => by rw [Ct.settleClaim_eq]; exact Ct.restate_sameBase _ _ b a) _ _).2

theorem Ct.takeLevel_divider (ct : Ct) (m : Module) (x : Level) (g : Byte) : (ct.takeLevel m x g).divider = ct.divider :=
  (Ct.SameBase.foldl (fun b a => by rw [Ct.settleClaim_eq]; exact Ct.restate_sameBase _ _ b a) _ _).1.2.2.2

theorem Ct.takeRestartStart_inPlace (ct : Ct) (m : Module) : ct.InPlace (ct.takeRestartStart m) :=
  .foldl Ct.unsettleClaim_inPlace _ _

theorem Ct.takeRestartStart_restated (ct : Ct) (m : Module) : ct.Restated (ct.takeRestartStart m) :=
  foldl_keeps (ct.Restated ·) _ (fun b a hb => hb.trans (Ct.unsettleClaim_restated b a)) _ _
    (.of_same rfl ⟨rfl, fun _ => rfl⟩)

theorem Ct.takeRestartStart_claimsRight {ct : Ct} (h : ct.ClaimsRight) (m : Module) :
    (ct.takeRestartStart m).ClaimsRight :=
  foldl_keeps Ct.ClaimsRight _ (fun b a hb => by
    rw [Ct.unsettleClaim_eq]
    exact Ct.restate_claimsRight hb (fun _ ht hr => right_of_ungranted (of_decide_eq_true ht) hr) a) _ _ h

theorem Ct.takeRestartStart_sameBase (ct : Ct) (m : Module) : ct.SameBase (ct.takeRestartStart m) :=
  .foldl (fun b a => by rw [Ct.unsettleClaim_eq]; exact Ct.restate_sameBase _ _ b a) _ _

theorem Ct.takeFault_inPlace (ct : Ct) (m : Module) (c : ModCause) : ct.InPlace (ct.takeFault m c) :=
  foldl_keeps (ct.InPlace ·) _ (fun b a hb => hb.trans (Ct.die_inPlace b a _ true)) _ _ (.of_same rfl rfl)

theorem Ct.takeFault_tracked {ct : Ct} (h : ct.Tracked) (m : Module) (c : ModCause) : (ct.takeFault m c).Tracked :=
  foldl_keeps Ct.Tracked _ (fun _ a hb => Ct.die_tracked hb a rfl true) _ _ h

theorem Ct.takeFault_claimsRight {ct : Ct} (h : ct.ClaimsRight) (m : Module) (c : ModCause) :
    (ct.takeFault m c).ClaimsRight :=
  foldl_keeps Ct.ClaimsRight _ (fun _ a hb => Ct.die_claimsRight hb a rfl true) _ _ h

theorem Ct.takeTick_inPlace (ct : Ct) : ct.InPlace ct.takeTick := .foldl Ct.countDown_inPlace _ _

theorem Ct.takeTick_tracked {ct : Ct} (h : ct.Tracked) : ct.takeTick.Tracked :=
  foldl_keeps Ct.Tracked _ (fun _ a hb => Ct.countDown_tracked hb a) _ _ h

theorem Ct.takeTick_claimsRight {ct : Ct} (h : ct.ClaimsRight) : ct.takeTick.ClaimsRight :=
  foldl_keeps Ct.ClaimsRight _ (fun _ a hb => Ct.countDown_claimsRight hb a) _ _ h

theorem Ct.takeTick_sameBase (ct : Ct) : ct.SameBase ct.takeTick := .foldl Ct.countDown_sameBase _ _

/-- One slot of a freeing of all that pass the test. -/
def Ct.freeIf (which : Claim → Bool) (ct : Ct) (sl : Slot) : Ct :=
  if (ct.claimAt sl).any which then ct.freeSlot sl else ct

/-- What freeing a slot that passes the test keeps, the freeing of all that pass it keeps. -/
theorem Ct.freeAll_keeps (P : Ct → Prop) {which : Claim → Bool}
    (h : ∀ (ct : Ct) (sl : Slot), P ct → (ct.claimAt sl).any which = true → P (ct.freeSlot sl)) {ct : Ct} (hc : P ct) :
    P (ct.freeAll which) :=
  foldl_keeps P (Ct.freeIf which) (fun b a hb => by
    unfold Ct.freeIf
    split
    · exact h b a hb ‹_›
    · exact hb) _ _ hc

theorem Ct.freeAll_tracked {ct : Ct} (h : ct.Tracked) (which : Claim → Bool) : (ct.freeAll which).Tracked :=
  Ct.freeAll_keeps Ct.Tracked (fun _ sl hb _ => Ct.freeSlot_tracked hb sl) h

theorem Ct.freeAll_accounted {ct : Ct} (h : ct.Accounted) (which : Claim → Bool) : (ct.freeAll which).Accounted :=
  Ct.freeAll_keeps Ct.Accounted (fun _ sl hb _ => Ct.freeSlot_accounted hb sl) h

theorem Ct.freeAll_sameBase (ct : Ct) (which : Claim → Bool) : ct.SameBase (ct.freeAll which) :=
  Ct.freeAll_keeps (ct.SameBase ·) (fun b sl hb _ => hb.trans (Ct.freeSlot_sameBase b sl)) (.refl ct)

theorem Ct.freeAll_claimAt (ct : Ct) (which : Claim → Bool) (x : Slot) :
    (ct.freeAll which).claimAt x = if (ct.claimAt x).any which then none else ct.claimAt x :=
  (congrArg SlotRec.claim (Ct.freeAll_slots ct which x)).trans (apply_ite ..)

theorem Ct.freeIf_slots_ne (which : Claim → Bool) (ct : Ct) (a x : Slot) (hx : x ≠ a) :
    (ct.freeIf which a).slots[x] = ct.slots[x] := by
  unfold Ct.freeIf
  split
  · rw [Ct.freeSlot_slots, if_neg fun h => hx h.1]
  · rfl

/-- Slots freed together leave the lists together, and cursors move back past all of them (R17, R24). -/
theorem Ct.freeAll_leftLists {ct : Ct} (h : ct.Tracked) (which : Claim → Bool) :
    Ct.LeftLists (fun x => (ct.claimAt x).any which) ct (ct.freeAll which) := by
  have := foldl_leftLists (op := Ct.freeIf which) (ends := (·.any which)) (fun b a hb => ?_)
    (Ct.freeIf_slots_ne which) (fun b a hb => ?_) (List.nodup_finRange 128) h
  · exact this.congr h.ordered fun _ x _ => by simp
  · unfold Ct.freeIf
    split
    · exact Ct.freeSlot_tracked hb a
    · exact hb
  · unfold Ct.freeIf
    split
    · rename_i ha
      simpa [ha] using Ct.freeSlot_leftLists hb a
    · rename_i ha
      simpa [ha] using Ct.LeftLists.of_sameLists (c := b) ⟨rfl, fun _ => rfl⟩

/-- A port that holds no slot to be freed keeps its count, quota and change set. -/
theorem Ct.freeAll_port {ct : Ct} {which : Claim → Bool} {q : Port} (h : ∀ c : Claim, which c = true → c.holder ≠ q) :
    (ct.freeAll which).ports[q] = { ct.ports[q] with cursor := (ct.freeAll which).ports[q].cursor } := by
  refine Ct.freeAll_keeps (fun d => d.ports[q] = { ct.ports[q] with cursor := d.ports[q].cursor }) (fun b sl hb hs => ?_) rfl
  obtain ⟨c, hc, hw⟩ := (Option.any_eq_true ..).1 hs
  have hq : q ≠ c.holder := fun e => h c hw e.symm
  rw [Ct.freeSlot_ports hc, if_neg hq, if_neg hq, hb]

theorem Ct.freeAll_quota (ct : Ct) (which : Claim → Bool) (q : Port) :
    (ct.freeAll which).ports[q].quota = ct.ports[q].quota :=
  Ct.freeAll_keeps (fun d => d.ports[q].quota = ct.ports[q].quota) (fun b sl hb _ => by
    cases hs : b.claimAt sl with
    | none => rw [Ct.freeSlot_free hs]; exact hb
    | some c => rw [Ct.freeSlot_ports hs]; exact hb) rfl

/-! ### A slot is filled (R5) -/

section
variable {ct : Ct} {sl : Slot} {p : Port} {m : Module} {l : Level} {lease : Nat} {tag : Half}

/-- The claim that a PLACE puts into its slot (R5). -/
def Ct.placed (ct : Ct) (p : Port) (m : Module) (l : Level) (lease : Nat) (tag : Half) : Claim :=
  let granted := !ct.views[m].fault && decide (l ≤ ct.views[m].level)
  { holder := p, module := m, level := l, leaseLength := lease
    leaseLeft := if lease = 0 then none else some lease
    tag := tag, genSeen := if granted then some ct.views[m].gen else none
    state := if granted then .granted else .pending }

theorem Ct.fill_slots (x : Slot) :
    (ct.fill sl p m l lease tag).slots[x] =
      if x = sl then { ct.slots[x] with claim := some (ct.placed p m l lease tag) } else ct.slots[x] := by
  simp only [Ct.fill, Ct.onPort_slots, modifyAt_get]; rfl

theorem Ct.fill_claimAt (x : Slot) :
    (ct.fill sl p m l lease tag).claimAt x = if x = sl then some (ct.placed p m l lease tag) else ct.claimAt x := by
  unfold Ct.claimAt
  rw [Ct.fill_slots]
  split <;> rfl

theorem Ct.fill_lists : (ct.fill sl p m l lease tag).lists = modifyAt ct.lists m (· ++ [sl]) := rfl

theorem Ct.fill_ports : (ct.fill sl p m l lease tag).ports = modifyAt ct.ports p fun q => { q with count := q.count + 1 } :=
  rfl

theorem Ct.fill_sameBase : ct.SameBase (ct.fill sl p m l lease tag) := .refl ct

theorem Ct.placed_live : (ct.placed p m l lease tag).state.live = true := by
  unfold Ct.placed
  dsimp only
  split <;> rfl

theorem Ct.placed_right (hl : 1 ≤ l) (hlease : lease ≤ 65535) : (ct.placed p m l lease tag).right := by
  refine ⟨hl, hlease, ?_, fun n hn => ?_, fun hg => ?_⟩
  · rw [Ct.placed_live]
    by_cases h : lease = 0 <;> simp [Ct.placed, h]
  · by_cases h : lease = 0
    · simp [Ct.placed, h] at hn
    · simp only [Ct.placed, h, if_false, Option.mem_def, Option.some.injEq] at hn ⊢
      omega
  · unfold Ct.placed at hg ⊢
    dsimp only at hg ⊢
    split at hg
    · rw [if_pos ‹_›]; rfl
    · cases hg

theorem Ct.fill_tracked (h : ct.Tracked) (hs : ct.claimAt sl = none) : (ct.fill sl p m l lease tag).Tracked := by
  have hfree := h.1.not_mem_of_free hs
  refine ⟨fun k => ?_, fun q cur hq x hx => ?_⟩
  · rw [Ct.fill_lists, modifyAt_get]
    have hlive (x : Slot) : (ct.fill sl p m l lease tag).liveOn k x =
        if x = sl then decide (m = k) else ct.liveOn k x := by
      unfold Ct.liveOn
      rw [Ct.fill_claimAt]
      split
      · simp only [Option.any_some, Ct.placed_live, Bool.true_and]; rfl
      · rfl
    by_cases hk : k = m
    · subst hk
      rw [if_pos rfl]
      refine ⟨List.Nodup.append (h.1 k).1 (List.nodup_singleton sl)
        (List.disjoint_singleton.2 (hfree k)), fun x => ?_⟩
      rw [hlive, List.mem_append, List.mem_singleton, (h.1 k).2 x]
      by_cases hx : x = sl <;> simp [hx]
    · rw [if_neg hk]
      refine ⟨(h.1 k).1, fun x => ?_⟩
      rw [hlive]
      by_cases hx : x = sl
      · subst hx; rw [if_pos rfl, decide_eq_false (Ne.symm hk)]; exact iff_of_false (hfree k) Bool.false_ne_true
      · rw [if_neg hx]; exact (h.1 k).2 x
  · rw [Ct.fill_ports, modifyAt_get] at hq
    have hmem : x ∈ ct.lists[cur.module] := h.2 q cur (by split at hq <;> exact hq) x hx
    rw [Ct.fill_lists, modifyAt_get]
    split
    · exact List.mem_append_left _ hmem
    · exact hmem

theorem Ct.fill_accounted (h : ct.Accounted) (hs : ct.claimAt sl = none) (hl : 1 ≤ l) (hlease : lease ≤ 65535) :
    (ct.fill sl p m l lease tag).Accounted := by
  obtain ⟨hcount, hset, hright⟩ := h
  refine ⟨fun q => ?_, fun q => ?_, fun x c hc => ?_⟩
  · rw [Ct.fill_ports, modifyAt_get]
    have hne (x : Slot) (hx : x ≠ sl) : (ct.fill sl p m l lease tag).claimAt x = ct.claimAt x := by
      rw [Ct.fill_claimAt, if_neg hx]
    by_cases hq : q = p
    · rw [if_pos hq, Ct.countClaims_succ (c := ct) (sl := sl) (by rw [hs]; rfl) _ hne]
      · exact congrArg (· + 1) (hcount q)
      · rw [Ct.fill_claimAt, if_pos rfl]; exact decide_eq_true hq.symm
    · rw [if_neg hq, hcount q]
      refine (Ct.countClaims_congr fun x => ?_).symm
      rw [Ct.fill_claimAt]
      split
      · subst_vars
        rw [hs]; exact decide_eq_false fun e => hq e.symm
      · rfl
  · have hp : (ct.fill sl p m l lease tag).ports[q].changes = ct.ports[q].changes := by
      rw [Ct.fill_ports, modifyAt_get]; split <;> rfl
    rw [hp]
    refine ⟨(hset q).1, fun x hx => ?_⟩
    have hheld := (hset q).2 x hx
    rw [Ct.fill_claimAt, if_neg]
    · exact hheld
    · rintro rfl; rw [hs] at hheld; cases hheld
  · rw [Ct.fill_claimAt] at hc
    split at hc
    · cases hc; exact Ct.placed_right hl hlease
    · exact hright x c hc

end

end Sys2Proof.Machine


namespace Sys2Proof.Machine

/-! ### Every change of the claim table -/

/-- Claimed levels worked out anew (R8). -/
@[irreducible] def Ct.relevelled (ct : Ct) : Ct := { ct with claimed := Vector.ofFn ct.worked }

@[simp] theorem Ct.relevelled_slots (ct : Ct) : ct.relevelled.slots = ct.slots := by rw [Ct.relevelled]
@[simp] theorem Ct.relevelled_lists (ct : Ct) : ct.relevelled.lists = ct.lists := by rw [Ct.relevelled]
@[simp] theorem Ct.relevelled_ports (ct : Ct) : ct.relevelled.ports = ct.ports := by rw [Ct.relevelled]
@[simp] theorem Ct.relevelled_divider (ct : Ct) : ct.relevelled.divider = ct.divider := by rw [Ct.relevelled]
@[simp] theorem Ct.relevelled_claimed (ct : Ct) : ct.relevelled.claimed = Vector.ofFn ct.worked := by rw [Ct.relevelled]

theorem Ct.relevelled_sameRecords (ct : Ct) : SameRecords ct ct.relevelled := by rw [Ct.relevelled]; exact ⟨rfl, rfl, rfl, rfl⟩

@[simp] theorem Ct.relevelled_claimAt (ct : Ct) (x : Slot) : ct.relevelled.claimAt x = ct.claimAt x := by
  unfold Ct.claimAt; rw [Ct.relevelled_slots]

@[simp] theorem Ct.relevelled_worked (ct : Ct) (m : Module) : ct.relevelled.worked m = ct.worked m := by
  unfold Ct.worked Ct.levelAt Ct.claimAt
  rw [Ct.relevelled_slots, Ct.relevelled_lists]

theorem State.relevel_ct_eq (s : State) : s.relevel.ct = s.ct.relevelled := by rw [State.relevel_ct, Ct.relevelled]

theorem Ct.relevelled_claimedRight (ct : Ct) : ct.relevelled.ClaimedRight := fun m => by
  rw [Ct.relevelled_claimed, Ct.relevelled_worked]; simp

/-- Every cursor is none (R17). -/
def Ct.dropCursors (ct : Ct) : Ct := { ct with ports := Vector.ofFn fun q => { ct.ports[q] with cursor := none } }

theorem Ct.dropCursors_slots (ct : Ct) : ct.dropCursors.slots = ct.slots := rfl
theorem Ct.dropCursors_lists (ct : Ct) : ct.dropCursors.lists = ct.lists := rfl

theorem Ct.dropCursors_ports (ct : Ct) (q : Port) : ct.dropCursors.ports[q] = { ct.ports[q] with cursor := none } := by
  simp [Ct.dropCursors]

/-- What a request of port `p` does to the claim table: one of the changes of chapters 1, 2 and 11. The control port's
changes say that `p` is HP0 (R158). -/
inductive Ct.Asked (p : Port) (ct : Ct) : Ct → Prop where
  /-- At most the table's records of modules and of the divider change. -/
  | records (d : Ct) (hs : d.slots = ct.slots) (hl : d.lists = ct.lists) (hc : d.claimed = ct.claimed)
      (hp : d.ports = ct.ports) : Asked p ct d
  | place (sl : Slot) (m : Module) (l : Level) (lease : Nat) (tag : Half) (hs : ct.claimAt sl = none) (hl : 1 ≤ l)
      (hn : lease ≤ 65535) : Asked p ct (ct.fill sl p m l lease tag).relevelled
  | change (sl : Slot) (c : Claim) (l : Level) (hs : ct.claimAt sl = some c) (hp : c.holder = p)
      (hc : c.state.live = true) (hl : 1 ≤ l) : Asked p ct (ct.changeLevel sl l).relevelled
  | renew (sl : Slot) (c : Claim) (n : Nat) (hs : ct.claimAt sl = some c) (hp : c.holder = p)
      (hc : c.state.live = true) (h0 : n ≠ 0) (hn : n = c.leaseLength ∨ n ≤ 65535) :
      Asked p ct (ct.onClaim sl fun c => { c with leaseLength := n, leaseLeft := some n })
  | release (sl : Slot) (c : Claim) (hs : ct.claimAt sl = some c) (hp : c.holder = p) :
      Asked p ct (ct.freeSlot sl).relevelled
  | browse (cur : Cursor) (h : ∀ sl ∈ cur.after, sl ∈ ct.lists[cur.module]) :
      Asked p ct (ct.onPort p fun q => { q with cursor := some cur })
  | takeChange (sl : Slot) (rest : List Slot) (h : ct.ports[p].changes = sl :: rest) :
      Asked p ct (ct.onPort p fun q => { q with changes := rest })
  | detach : Asked p ct
      ((ct.freeAll fun c => decide (c.holder = p)).onPort p fun q => { q with cursor := none }).relevelled
  | setQuota (hp : p = 0) (q : Port) (n : Nat) : Asked p ct (ct.onPort q fun r => { r with quota := n })
  | evict (hp : p = 0) (sl : Slot) (marked : Bool) : Asked p ct (ct.die sl .evicted marked).relevelled
  | retire (hp : p = 0) (sl : Slot) : Asked p ct (ct.freeSlot sl).relevelled
  | retireAll (hp : p = 0) : Asked p ct (ct.freeAll fun _ => true).dropCursors.relevelled

/-- What an event other than a request does to the claim table: a notice of an engine, or the tick (R9 to R14, R50). -/
inductive Ct.Told (ct : Ct) : Ct → Prop where
  | level (m : Module) (x : Level) (g : Byte) : Told ct (ct.takeLevel m x g)
  | restartStart (m : Module) : Told ct (ct.takeRestartStart m)
  | restartEnd (m : Module) : Told ct { ct with restartMark := ct.restartMark.set m none }
  | fault (m : Module) (c : ModCause) : Told ct (ct.takeFault m c).relevelled
  | tick : Told ct ct.takeTick.relevelled

/-! ### Lists, cursors and claimed levels (R6 to R8, R23) -/

/-- Cursors may stand anywhere in their lists, and the items of a port may change otherwise. -/
theorem Ct.Tracked.of_cursors {c d : Ct} (h : c.Tracked) (hs : d.slots = c.slots) (hl : d.lists = c.lists)
    (hq : ∀ q : Port, ∀ cur ∈ d.ports[q].cursor, c.ports[q].cursor = some cur ∨ ∀ sl ∈ cur.after, sl ∈ c.lists[cur.module]) :
    d.Tracked := by
  refine ⟨fun m => ?_, fun q cur hc sl ha => ?_⟩
  · unfold Ct.liveOn Ct.claimAt
    rw [hl, hs]
    exact h.1 m
  · rw [hl]
    rcases hq q cur hc with h1 | h1
    · exact h.2 q cur h1 sl ha
    · exact h1 sl ha

theorem Ct.Tracked.relevelled {ct : Ct} (h : ct.Tracked) : ct.relevelled.Tracked ∧ ct.relevelled.ClaimedRight :=
  ⟨h.of_cursors ct.relevelled_slots ct.relevelled_lists fun q _ hc => .inl (by rw [ct.relevelled_ports] at hc; exact hc),
    ct.relevelled_claimedRight⟩

/-- A claimed level depends on lists and levels only (R8). -/
theorem Ct.ClaimedRight.of_same {c d : Ct} (h : c.ClaimedRight) (hs : d.slots = c.slots) (hl : d.lists = c.lists)
    (hc : d.claimed = c.claimed) : d.ClaimedRight := fun m => by
  unfold Ct.worked Ct.levelAt Ct.claimAt
  rw [hc, hl, hs]
  exact h m

theorem Ct.Restated.claimedRight {c d : Ct} (h : c.Restated d) (hc : d.claimed = c.claimed) (hr : c.ClaimedRight) :
    d.ClaimedRight := fun m => by rw [hc, h.worked]; exact hr m

/-- A cursor put on one port may stand anywhere in its list. -/
theorem Ct.onPort_tracked {ct : Ct} (h : ct.Tracked) (p : Port) {f : CtPort → CtPort}
    (hf : ∀ r : CtPort, ∀ cur ∈ (f r).cursor, r.cursor = some cur ∨ ∀ sl ∈ cur.after, sl ∈ ct.lists[cur.module]) :
    (ct.onPort p f).Tracked :=
  h.of_cursors rfl rfl fun q cur hc => by
    rw [Ct.onPort_ports, modifyAt_get] at hc
    split at hc
    · exact hf _ cur hc
    · exact .inl hc

theorem Ct.changeLevel_tracked {ct : Ct} (h : ct.Tracked) {sl : Slot} {c : Claim} (hs : ct.claimAt sl = some c)
    (hc : c.state.live = true) (l : Level) : (ct.changeLevel sl l).Tracked := by
  have hl : Ct.LeftLists (fun _ => false) ct (ct.changeLevel sl l) := .of_sameLists ⟨rfl, fun _ => rfl⟩
  refine h.leave hl fun m x => ?_
  unfold Ct.changeLevel Ct.liveOn
  rw [Ct.claimAt_onClaim, Bool.not_false, Bool.and_true]
  split
  · subst_vars
    simp only [hs, Option.map_some, Option.any_some, hc, ModView.settles]
    split <;> rfl
  · rfl

theorem Ct.Asked.tracked {p : Port} {c d : Ct} (h : Ct.Asked p c d) (hc : c.Tracked ∧ c.ClaimedRight) :
    d.Tracked ∧ d.ClaimedRight := by
  obtain ⟨ht, hr⟩ := hc
  cases h with
  | records d hs hl hc hp => exact ⟨ht.of_cursors hs hl fun q cur h => .inl (hp ▸ h), hr.of_same hs hl hc⟩
  | place sl m l lease tag hs hl hn => exact (Ct.fill_tracked ht hs).relevelled
  | change sl c l hs hp hc hl => exact (Ct.changeLevel_tracked ht hs hc l).relevelled
  | renew sl a n hs hp hc h0 hn =>
    have hk := Ct.onClaim_restated (ct := c) (sl := sl) (f := fun c => { c with leaseLength := n, leaseLeft := some n })
      fun _ _ => ⟨rfl, rfl, rfl⟩
    exact ⟨hk.tracked ht, hk.claimedRight rfl hr⟩
  | release sl c hs hp => exact (Ct.freeSlot_tracked ht sl).relevelled
  | browse cur h =>
    exact ⟨Ct.onPort_tracked ht p fun _ _ hm => .inr (by cases hm; exact h), hr.of_same rfl rfl rfl⟩
  | takeChange sl rest h => exact ⟨Ct.onPort_tracked ht p fun _ _ hm => .inl hm, hr.of_same rfl rfl rfl⟩
  | detach =>
    exact (Ct.onPort_tracked (Ct.freeAll_tracked ht _) p fun _ _ hm => by cases hm).relevelled
  | setQuota hp q n => exact ⟨Ct.onPort_tracked ht q fun _ _ hm => .inl hm, hr.of_same rfl rfl rfl⟩
  | evict hp sl marked => exact (Ct.die_tracked ht sl rfl marked).relevelled
  | retire hp sl => exact (Ct.freeSlot_tracked ht sl).relevelled
  | retireAll hp =>
    refine ((Ct.freeAll_tracked ht _).of_cursors (Ct.dropCursors_slots _) (Ct.dropCursors_lists _)
      fun q cur hm => ?_).relevelled
    rw [Ct.dropCursors_ports] at hm
    cases hm

theorem Ct.Told.tracked {c d : Ct} (h : Ct.Told c d) (hc : c.Tracked ∧ c.ClaimedRight) : d.Tracked ∧ d.ClaimedRight := by
  obtain ⟨ht, hr⟩ := hc
  cases h with
  | level m x g =>
    have hk := Ct.takeLevel_restated c m x g
    exact ⟨hk.tracked ht, hk.claimedRight (Ct.takeLevel_claimed c m x g) hr⟩
  | restartStart m =>
    have hk := Ct.takeRestartStart_restated c m
    exact ⟨hk.tracked ht, hk.claimedRight (Ct.takeRestartStart_sameBase c m).2 hr⟩
  | restartEnd m => exact ⟨ht, hr⟩
  | fault m cause => exact (Ct.takeFault_tracked ht m cause).relevelled
  | tick => exact (Ct.takeTick_tracked ht).relevelled

/-! ### Counts, change sets and claims (R18, R20, R49) -/

/-- Slots as they were, counts as they were, and change sets that lost members at most. -/
theorem Ct.Accounted.of_ports {c d : Ct} (h : c.Accounted) (hs : d.slots = c.slots)
    (hq : ∀ q : Port, d.ports[q].count = c.ports[q].count ∧ d.ports[q].changes.Sublist c.ports[q].changes) :
    d.Accounted := by
  obtain ⟨hcount, hset, hright⟩ := h
  have hat : d.claimAt = c.claimAt := by unfold Ct.claimAt; rw [hs]
  refine ⟨fun q => ?_, fun q => ?_, fun x => ?_⟩
  · unfold Ct.countClaims
    rw [(hq q).1, hat]
    exact hcount q
  · rw [hat]
    exact ⟨(hset q).1.sublist (hq q).2, fun x hx => (hset q).2 x ((hq q).2.subset hx)⟩
  · rw [hat]; exact hright x

theorem Ct.Accounted.relevelled {ct : Ct} (h : ct.Accounted) : ct.relevelled.Accounted :=
  h.of_ports ct.relevelled_slots fun q => by rw [ct.relevelled_ports]; exact ⟨rfl, .refl _⟩

theorem Ct.onPort_accounted {ct : Ct} (h : ct.Accounted) {p : Port} {f : CtPort → CtPort}
    (hf : (f ct.ports[p]).count = ct.ports[p].count ∧ (f ct.ports[p]).changes.Sublist ct.ports[p].changes) :
    (ct.onPort p f).Accounted :=
  h.of_ports rfl fun q => by
    rw [Ct.onPort_ports, modifyAt_get]
    split
    · subst_vars; exact hf
    · exact ⟨rfl, .refl _⟩

theorem Ct.Accounted.dropCursor {ct : Ct} (h : ct.Accounted) {p : Port} :
    (ct.onPort p fun q => { q with cursor := none }).Accounted := Ct.onPort_accounted h ⟨rfl, .refl _⟩

theorem Ct.Accounted.dropCursors {ct : Ct} (h : ct.Accounted) : ct.dropCursors.Accounted :=
  h.of_ports rfl fun q => by rw [Ct.dropCursors_ports]; exact ⟨rfl, .refl _⟩

theorem right_of_changed {c : Claim} (h : c.right) (hc : c.state.live = true) {l : Level} (hl : 1 ≤ l)
    (v : ModView) :
    ({ c with
        level := l, state := v.settles l
        genSeen := if v.settles l = .granted ∧ c.state = .pending then some v.gen else c.genSeen } : Claim).right := by
  obtain ⟨-, hlen, hiff, hrange, hg⟩ := h
  have hlive : (v.settles l).live = true := by unfold ModView.settles; split <;> rfl
  refine ⟨hl, hlen, ?_, hrange, fun he => ?_⟩
  · rw [hc] at hiff; rw [hlive]; exact hiff
  · have he : v.settles l = .granted := he
    dsimp only
    split
    · rfl
    · rename_i hn
      cases hst : c.state with
      | pending => exact absurd ⟨he, hst⟩ hn
      | granted => exact hg hst
      | broken r => rw [hst] at hc; cases hc
      | lapsed => rw [hst] at hc; cases hc
      | evicted => rw [hst] at hc; cases hc

theorem Ct.changeLevel_inPlace (ct : Ct) (sl : Slot) (l : Level) : ct.InPlace (ct.changeLevel sl l) := by
  unfold Ct.changeLevel
  refine Ct.onClaim_inPlace (fun _ => ?_) ct sl
  rfl

theorem Ct.changeLevel_accounted {ct : Ct} (h : ct.Accounted) {sl : Slot} {c : Claim} (hs : ct.claimAt sl = some c)
    (hc : c.state.live = true) {l : Level} (hl : 1 ≤ l) : (ct.changeLevel sl l).Accounted := by
  refine (Ct.changeLevel_inPlace ct sl l).accounted h (Ct.onClaim_claimsRight h.2.2 fun a ha hr => ?_)
  rw [hs] at ha; cases ha
  exact right_of_changed hr hc hl _

theorem right_of_renewed {c : Claim} (h : c.right) (hc : c.state.live = true) {n : Nat} (h0 : n ≠ 0)
    (hn : n = c.leaseLength ∨ n ≤ 65535) : ({ c with leaseLength := n, leaseLeft := some n } : Claim).right := by
  obtain ⟨hl, hlen, -, -, hg⟩ := h
  refine ⟨hl, hn.elim (· ▸ hlen) id, ?_, ?_, hg⟩
  · simp [hc, h0]
  · rintro k ⟨⟩
    exact ⟨Nat.one_le_iff_ne_zero.2 h0, le_rfl⟩

theorem Ct.Asked.accounted {p : Port} {c d : Ct} (h : Ct.Asked p c d) (hc : c.Accounted) : d.Accounted := by
  cases h with
  | records d hs hl hc' hp => exact hc.of_ports hs fun q => by rw [hp]; exact ⟨rfl, .refl _⟩
  | place sl m l lease tag hs hl hn => exact (Ct.fill_accounted hc hs hl hn).relevelled
  | change sl c l hs hp hlive hl => exact (Ct.changeLevel_accounted hc hs hlive hl).relevelled
  | renew sl a n hs hp hlive h0 hn =>
    refine (Ct.onClaim_inPlace (f := fun c => { c with leaseLength := n, leaseLeft := some n })
      (fun _ => rfl) c sl).accounted hc (Ct.onClaim_claimsRight hc.2.2 fun b hb hr => ?_)
    rw [hs] at hb; cases hb
    exact right_of_renewed hr hlive h0 hn
  | release sl a hs hp => exact (Ct.freeSlot_accounted hc sl).relevelled
  | browse cur h => exact Ct.onPort_accounted hc ⟨rfl, .refl _⟩
  | takeChange sl rest h => exact Ct.onPort_accounted hc ⟨rfl, by rw [h]; exact List.sublist_cons_self sl rest⟩
  | detach => exact (Ct.freeAll_accounted hc _).dropCursor.relevelled
  | setQuota hp q n => exact Ct.onPort_accounted hc ⟨rfl, .refl _⟩
  | evict hp sl marked =>
    exact ((Ct.die_inPlace c sl _ marked).accounted hc (Ct.die_claimsRight hc.2.2 sl rfl marked)).relevelled
  | retire hp sl => exact (Ct.freeSlot_accounted hc sl).relevelled
  | retireAll hp =>
    exact (Ct.freeAll_accounted hc _).dropCursors.relevelled

theorem Ct.Told.claimsRight {c d : Ct} (h : Ct.Told c d) (hc : c.ClaimsRight) : d.ClaimsRight := by
  cases h with
  | level m x g => exact Ct.takeLevel_claimsRight hc m x g
  | restartStart m => exact Ct.takeRestartStart_claimsRight hc m
  | restartEnd m => exact hc
  | fault m cause => exact fun x => by rw [Ct.relevelled_claimAt]; exact Ct.takeFault_claimsRight hc m cause x
  | tick => exact fun x => by rw [Ct.relevelled_claimAt]; exact Ct.takeTick_claimsRight hc x

/-- A notice or a tick fills and frees no slot. -/
theorem Ct.Told.inPlace {c d : Ct} (h : Ct.Told c d) : c.InPlace d := by
  cases h with
  | level m x g => exact Ct.takeLevel_inPlace c m x g
  | restartStart m => exact Ct.takeRestartStart_inPlace c m
  | restartEnd m => exact .of_same rfl rfl
  | fault m cause => exact (Ct.takeFault_inPlace c m cause).trans (.of_same (Ct.relevelled_slots _) (Ct.relevelled_ports _))
  | tick => exact (Ct.takeTick_inPlace c).trans (.of_same (Ct.relevelled_slots _) (Ct.relevelled_ports _))

theorem Ct.Told.accounted {c d : Ct} (h : Ct.Told c d) (hc : c.Accounted) : d.Accounted :=
  h.inPlace.accounted hc (h.claimsRight hc.2.2)

/-! ### Generations (R3) -/

/-- A slot that became FREE has the next generation, and every other slot the one it had. -/
def Ct.GensFollow (c d : Ct) : Prop := ∀ sl : Slot, d.slots[sl].gen =
  if (c.claimAt sl).isSome = true ∧ d.claimAt sl = none then c.slots[sl].gen + 1 else c.slots[sl].gen

theorem Ct.InPlace.gensFollow {c d : Ct} (h : c.InPlace d) : c.GensFollow d := fun sl => by
  rw [h.gens sl, if_neg]
  rintro ⟨h1, h2⟩
  rw [← h.isSome, h2] at h1
  cases h1

theorem Ct.GensFollow.of_slots {c d : Ct} (h : d.slots = c.slots) : c.GensFollow d := fun sl => by
  have hat : d.claimAt sl = c.claimAt sl := by unfold Ct.claimAt; rw [h]
  rw [hat, h, if_neg]
  rintro ⟨h1, h2⟩
  rw [h2] at h1
  cases h1

theorem Ct.GensFollow.slots {c d e : Ct} (h : c.GensFollow d) (hs : e.slots = d.slots) : c.GensFollow e := fun sl => by
  have hat : e.claimAt sl = d.claimAt sl := by unfold Ct.claimAt; rw [hs]
  rw [hs, hat]; exact h sl

theorem Ct.GensFollow.relevelled {c d : Ct} (h : c.GensFollow d) : c.GensFollow d.relevelled :=
  h.slots d.relevelled_slots

theorem Ct.fill_gensFollow {ct : Ct} {sl : Slot} {p : Port} {m : Module} {l : Level} {lease : Nat} {tag : Half} :
    ct.GensFollow (ct.fill sl p m l lease tag) := fun x => by
  rw [Ct.fill_slots, Ct.fill_claimAt]
  by_cases hx : x = sl
  · simp [hx]
  · rw [if_neg hx, if_neg hx, if_neg]
    rintro ⟨h1, h2⟩
    rw [h2] at h1
    cases h1

/-- Each freed slot takes the next generation (R3, R16). -/
theorem Ct.GensFollow.of_freed {c d : Ct} {freed : Slot → Bool} (hf : ∀ x, freed x = true → (c.claimAt x).isSome = true)
    (h : ∀ x : Slot, d.slots[x] = if freed x then { gen := c.slots[x].gen + 1, claim := none } else c.slots[x]) :
    c.GensFollow d := fun x => by
  have hat : d.claimAt x = if freed x then none else c.claimAt x := (congrArg SlotRec.claim (h x)).trans (apply_ite ..)
  rw [h, hat]
  by_cases hx : freed x = true
  · rw [if_pos hx, if_pos hx, if_pos ⟨hf x hx, rfl⟩]
  · rw [if_neg hx, if_neg hx, if_neg]
    rintro ⟨h1, h2⟩
    rw [h2] at h1
    cases h1

theorem Ct.freeSlot_gensFollow (ct : Ct) (sl : Slot) : ct.GensFollow (ct.freeSlot sl) :=
  .of_freed (freed := fun x => decide (x = sl) && (ct.claimAt sl).isSome)
    (fun x hx => by
      obtain ⟨h1, h2⟩ := (Bool.and_eq_true ..).mp hx
      rw [of_decide_eq_true h1]; exact h2)
    fun x => by rw [Ct.freeSlot_slots]; simp

theorem Ct.freeAll_gensFollow (ct : Ct) (which : Claim → Bool) : ct.GensFollow (ct.freeAll which) :=
  .of_freed (freed := fun x => (ct.claimAt x).any which)
    (fun x hx => by
      obtain ⟨c, hc, -⟩ := (Option.any_eq_true ..).1 hx
      rw [hc]; rfl)
    (Ct.freeAll_slots ct which)

theorem Ct.Asked.gensFollow {p : Port} {c d : Ct} (h : Ct.Asked p c d) : c.GensFollow d := by
  cases h with
  | records d hs hl hc' hp => exact .of_slots hs
  | place sl m l lease tag hs hl hn => exact Ct.fill_gensFollow.relevelled
  | change sl a l hs hp hlive hl => exact (Ct.changeLevel_inPlace c sl l).gensFollow.relevelled
  | renew sl a n hs hp hlive h0 hn =>
    exact (Ct.onClaim_inPlace (f := fun c => { c with leaseLength := n, leaseLeft := some n })
      (fun _ => rfl) c sl).gensFollow
  | release sl a hs hp => exact (Ct.freeSlot_gensFollow c sl).relevelled
  | browse cur h => exact .of_slots rfl
  | takeChange sl rest h => exact .of_slots rfl
  | detach => exact ((Ct.freeAll_gensFollow c _).slots (Ct.onPort_slots _ p _)).relevelled
  | setQuota hp q n => exact .of_slots rfl
  | evict hp sl marked => exact (Ct.die_inPlace c sl .evicted marked).gensFollow.relevelled
  | retire hp sl => exact (Ct.freeSlot_gensFollow c sl).relevelled
  | retireAll hp => exact ((Ct.freeAll_gensFollow c _).slots (Ct.dropCursors_slots _)).relevelled

/-! ### What the request of one port leaves to the others (R16, R20, R27, R158) -/

/-- The claims, counts, quotas and change sets of port `q` are as they were. -/
abbrev Ct.SamePort (c d : Ct) (q : Port) : Prop :=
  d.ports[q] = { c.ports[q] with cursor := d.ports[q].cursor } ∧
    ∀ sl : Slot, (∀ a ∈ c.claimAt sl, a.holder = q → d.slots[sl] = c.slots[sl]) ∧
      ∀ a ∈ d.claimAt sl, a.holder = q → c.claimAt sl = some a

/-- One slot, which port `q` holds neither before nor after, changes. -/
theorem Ct.SamePort.of_slot {c d : Ct} {q : Port} {sl : Slot}
    (hp : d.ports[q] = { c.ports[q] with cursor := d.ports[q].cursor })
    (hs : ∀ x : Slot, x ≠ sl → d.slots[x] = c.slots[x]) (hc : ∀ a ∈ c.claimAt sl, a.holder ≠ q)
    (hd : ∀ a ∈ d.claimAt sl, a.holder ≠ q) : c.SamePort d q := by
  refine ⟨hp, fun x => ?_⟩
  by_cases hx : x = sl
  · subst hx
    exact ⟨fun a ha hq => absurd hq (hc a ha), fun a ha hq => absurd hq (hd a ha)⟩
  · exact ⟨fun _ _ _ => hs x hx, fun a ha _ => (Ct.claimAt_of_slots (hs x hx)).symm.trans ha⟩

theorem Ct.SamePort.of_slots {c d : Ct} {q : Port} (hp : d.ports[q] = { c.ports[q] with cursor := d.ports[q].cursor })
    (hs : d.slots = c.slots) : c.SamePort d q := by
  refine ⟨hp, fun x => ⟨fun _ _ _ => by rw [hs], fun a ha _ => ?_⟩⟩
  unfold Ct.claimAt at ha ⊢
  rw [← hs]; exact ha

theorem Ct.onPort_samePort {ct : Ct} {p q : Port} (hq : q ≠ p) (f : CtPort → CtPort) : ct.SamePort (ct.onPort p f) q :=
  .of_slots (by rw [Ct.onPort_ports, modifyAt_get, if_neg hq]) rfl

theorem Ct.onClaim_samePort {ct : Ct} {sl : Slot} {c : Claim} {q : Port} (hs : ct.claimAt sl = some c) (hq : q ≠ c.holder)
    {f : Claim → Claim} (hf : (f c).holder = c.holder) : ct.SamePort (ct.onClaim sl f) q := by
  refine .of_slot (sl := sl) rfl (fun x hx => by rw [Ct.onClaim_slots, modifyAt_get_ne _ _ hx]) (fun a ha => ?_)
    fun a ha => ?_
  · rw [hs] at ha; cases ha; exact Ne.symm hq
  · rw [Ct.claimAt_onClaim, if_pos rfl, hs] at ha
    cases ha
    rw [hf]; exact Ne.symm hq

theorem Ct.freeSlot_samePort {ct : Ct} {sl : Slot} {c : Claim} {q : Port} (hs : ct.claimAt sl = some c)
    (hq : q ≠ c.holder) : ct.SamePort (ct.freeSlot sl) q := by
  obtain ⟨-, hother, -⟩ := Ct.freeSlot_freed hs
  refine .of_slot (sl := sl) ?_ hother (fun a ha => ?_) fun a ha => ?_
  · rw [Ct.freeSlot_ports hs, if_neg hq, if_neg hq]
  · rw [hs] at ha; cases ha; exact Ne.symm hq
  · rw [Ct.freeSlot_claimAt, if_pos rfl] at ha; cases ha

theorem Ct.freeAll_samePort (ct : Ct) {p q : Port} (hq : q ≠ p) :
    ct.SamePort (ct.freeAll fun c => decide (c.holder = p)) q := by
  refine ⟨Ct.freeAll_port fun c hc => by rw [of_decide_eq_true hc]; exact Ne.symm hq, fun x => ⟨fun a ha hh => ?_, fun a ha hh => ?_⟩⟩
  · have : (ct.claimAt x).any (fun c => decide (c.holder = p)) = false := by
      rw [ha]; exact decide_eq_false (hh ▸ hq)
    rw [Ct.freeAll_slots, this]; rfl
  · rw [Ct.freeAll_claimAt] at ha
    split at ha
    · cases ha
    · exact ha

theorem Ct.fill_samePort {ct : Ct} {sl : Slot} {p q : Port} (hs : ct.claimAt sl = none) (hq : q ≠ p) {m : Module}
    {l : Level} {lease : Nat} {tag : Half} : ct.SamePort (ct.fill sl p m l lease tag) q := by
  have hport : (ct.fill sl p m l lease tag).ports[q] = ct.ports[q] := by
    rw [Ct.fill_ports, modifyAt_get, if_neg hq]
  refine .of_slot (sl := sl) (by rw [hport]) (fun x hx => ?_) (fun a ha => ?_) fun a ha => ?_
  · rw [Ct.fill_slots, if_neg hx]
  · rw [hs] at ha; cases ha
  · rw [Ct.fill_claimAt, if_pos rfl] at ha
    cases ha
    exact Ne.symm hq

theorem Ct.SamePort.onPort {c d : Ct} {p q : Port} (h : c.SamePort d q) (hq : q ≠ p) (f : CtPort → CtPort) :
    c.SamePort (d.onPort p f) q := by
  refine ⟨?_, h.2⟩
  rw [Ct.onPort_ports, modifyAt_get, if_neg hq]
  exact h.1

theorem Ct.SamePort.relevelled {c d : Ct} {q : Port} (h : c.SamePort d q) : c.SamePort d.relevelled q := by
  refine ⟨?_, fun sl => ?_⟩
  · rw [Ct.relevelled_ports]; exact h.1
  · rw [Ct.relevelled_slots, Ct.relevelled_claimAt]; exact h.2 sl

/-- A request of HP1, HP2 or HP3 leaves every other port's claims and items (R16, R20, R27). -/
theorem Ct.Asked.samePort {p : Port} {c d : Ct} (h : Ct.Asked p c d) (hp0 : p ≠ 0) {q : Port} (hq : q ≠ p) :
    c.SamePort d q := by
  cases h with
  | records d hs hl hc' hp => exact .of_slots (by rw [hp]) hs
  | place sl m l lease tag hs hl hn => exact (Ct.fill_samePort hs hq).relevelled
  | change sl a l hs hp hlive hl =>
    exact .relevelled (d := c.changeLevel sl l) (Ct.onClaim_samePort hs (hp ▸ hq) rfl)
  | renew sl a n hs hp hlive h0 hn => exact Ct.onClaim_samePort hs (hp ▸ hq) rfl
  | release sl a hs hp => exact (Ct.freeSlot_samePort hs (hp ▸ hq)).relevelled
  | browse cur h => exact Ct.onPort_samePort hq _
  | takeChange sl rest h => exact Ct.onPort_samePort hq _
  | detach => exact ((Ct.freeAll_samePort c hq).onPort hq _).relevelled
  | setQuota hp => exact absurd hp hp0
  | evict hp => exact absurd hp hp0
  | retire hp => exact absurd hp hp0
  | retireAll hp => exact absurd hp hp0

end Sys2Proof.Machine


namespace Sys2Proof.Machine

/-! ### Dividers on their way to the timebase: no engine touches them (R47, R74) -/

@[simp] theorem State.noticeChange_dividers (s : State) (e : Domain) (m : Module) (old new : ModRec) :
    (s.noticeChange e m old new).links.dividers = s.links.dividers := by
  unfold State.noticeChange
  dsimp only
  split <;> split <;> simp

@[simp] theorem State.appendEntry_dividers (s : State) (e : Domain) (en : Entry) :
    (s.appendEntry e en).links.dividers = s.links.dividers := rfl

@[simp] theorem State.compareWanted_dividers (s : State) (e : Domain) (m : Module) :
    (s.compareWanted e m).links.dividers = s.links.dividers := by
  unfold State.compareWanted
  dsimp only
  split <;> simp

@[simp] theorem State.beginStep_dividers (s : State) (e : Domain) (m : Module) (st : LineStep) :
    (s.beginStep e m st).links.dividers = s.links.dividers := rfl

@[simp] theorem State.completeStep_dividers (s : State) (e : Domain) (m : Module) (st : LineStep) (t : Target)
    (last : Bool) : (s.completeStep e m st t last).links.dividers = s.links.dividers := by
  simp [State.completeStep]

@[simp] theorem State.endTransition_dividers (s : State) (e : Domain) (m : Module) (restart : Option Port) :
    (s.endTransition e m restart).links.dividers = s.links.dividers := by
  cases restart <;> simp [State.endTransition]

@[simp] theorem State.runSteps_dividers (e : Domain) (m : Module) (t : Target) (restart : Option Port)
    (steps : List LineStep) (s : State) :
    (State.runSteps e m t restart steps s).links.dividers = s.links.dividers := by
  induction steps generalizing s with
  | nil => exact State.endTransition_dividers ..
  | cons st rest ih =>
    unfold State.runSteps
    dsimp only
    split
    · rw [ih]; simp
    · simp

@[simp] theorem State.finishStep_dividers (s : State) (e : Domain) (t : Transition) :
    (s.finishStep e t).links.dividers = s.links.dividers := by
  unfold State.finishStep
  split <;> simp

@[simp] theorem State.startPath_dividers (s : State) (e : Domain) (m : Module) (t : Target) (restart : Option Port)
    (steps : List LineStep) : (s.startPath e m t restart steps).links.dividers = s.links.dividers := by
  simp [State.startPath]

@[simp] theorem State.failRestart_dividers (s : State) (e : Domain) (m : Module) (p : Port) :
    (s.failRestart e m p).links.dividers = s.links.dividers := rfl

@[simp] theorem State.takeRestart_dividers (s : State) (e : Domain) (m : Module) (t : Target) (p : Port) :
    (s.takeRestart e m t p).links.dividers = s.links.dividers := by
  unfold State.takeRestart
  split
  · simp
  · dsimp only
    split <;> simp

@[simp] theorem State.flagOnly_dividers (s : State) (e : Domain) (m : Module) (t : Target) :
    (s.flagOnly e m t).links.dividers = s.links.dividers := by simp [State.flagOnly]

@[simp] theorem State.leaveLinger_dividers (s : State) (e : Domain) :
    (s.leaveLinger e).links.dividers = s.links.dividers := by
  unfold State.leaveLinger
  split <;> simp

@[simp] theorem State.takeEntry_dividers (s : State) (e : Domain) (en : Entry) :
    (s.takeEntry e en).links.dividers = s.links.dividers := by
  unfold State.takeEntry
  dsimp only
  split
  · simp
  · split <;> simp

@[simp] theorem State.beginRampUp_dividers (s : State) (x : SwDom) :
    (s.beginRampUp x).links.dividers = s.links.dividers := by
  unfold State.beginRampUp
  dsimp only
  split <;> rfl

@[simp] theorem State.completeRampDown_dividers (s : State) (x : SwDom) :
    (s.completeRampDown x).links.dividers = s.links.dividers := rfl

@[simp] theorem State.completeRampUp_dividers (s : State) (x : SwDom) :
    (s.completeRampUp x).links.dividers = s.links.dividers := rfl

@[simp] theorem State.beginRampDown_dividers (s : State) (x : SwDom) :
    (s.beginRampDown x).links.dividers = s.links.dividers := by
  unfold State.beginRampDown
  dsimp only
  split <;> rfl

@[simp] theorem State.leaveOn_dividers (s : State) (x : SwDom) : (s.leaveOn x).links.dividers = s.links.dividers := by
  unfold State.leaveOn
  dsimp only
  split <;> simp

theorem State.engineMove_dividers {s t : State} {e : Domain} (h : s.engineMove e = some t) :
    t.links.dividers = s.links.dividers := by
  obtain ⟨_, ⟨x, _, _, rfl⟩ | ⟨en, _, _, rfl⟩ | ⟨x, _, _, rfl⟩⟩ := State.engineMove_cases h <;> simp

@[simp] theorem State.settleEngine_dividers (s : State) (e : Domain) :
    (s.settleEngine e).links.dividers = s.links.dividers :=
  State.settleEngine_keeps (fun u => u.links.dividers = s.links.dividers) e s
    (fun _ _ hu h => (State.engineMove_dividers h).trans hu) rfl

@[simp] theorem State.alertFault_dividers (s : State) (m : Module) :
    (s.alertFault m).links.dividers = s.links.dividers := by
  unfold State.alertFault
  dsimp only
  split <;> rfl

@[simp] theorem State.faultModule_dividers (s : State) (e : Domain) (m : Module) (c : ModCause) :
    (s.faultModule e m c).links.dividers = s.links.dividers := by
  unfold State.faultModule
  dsimp only
  split <;> simp

@[simp] theorem State.faultDomain_dividers (s : State) (x : SwDom) (c : DomCause) :
    (s.faultDomain x c).links.dividers = s.links.dividers := by
  unfold State.faultDomain
  dsimp only
  simp only [State.alert_links, State.onRec_links]
  refine foldl_keeps (fun u : State => u.links.dividers = s.links.dividers) _ (fun u m hu => ?_) _ _ rfl
  split
  · rw [State.faultModule_dividers]; exact hu
  · exact hu

@[simp] theorem State.releaseModule_dividers (s : State) (e : Domain) (m : Module) :
    (s.releaseModule e m).links.dividers = s.links.dividers := by
  unfold State.releaseModule
  split <;> simp

@[simp] theorem State.queueTarget_dividers (s : State) (e : Domain) (m : Module) (t : Target) :
    (s.queueTarget e m t).links.dividers = s.links.dividers := by
  unfold State.queueTarget
  dsimp only
  split
  · simp
  · split <;> simp

@[simp] theorem State.takeTarget_dividers (s : State) (e : Domain) (m : Module) (t : Target) :
    (s.takeTarget e m t).links.dividers = s.links.dividers := by
  unfold State.takeTarget
  split
  · dsimp only
    split <;> simp
  · rfl

@[simp] theorem State.takeRestartPosting_dividers (s : State) (e : Domain) (m : Module) (p : Port) :
    (s.takeRestartPosting e m p).links.dividers = s.links.dividers := by
  unfold State.takeRestartPosting
  repeat' split
  all_goals simp

@[simp] theorem State.finishDr_dividers (s : State) (ns : List (Domain × DrPosting)) :
    (s.finishDr ns).links.dividers = s.links.dividers := by rw [State.finishDr_eq]

@[simp] theorem State.takeEngineTick_dividers (s : State) (e : Domain) :
    (s.takeEngineTick e).links.dividers = s.links.dividers := by
  unfold State.takeEngineTick
  dsimp only
  split
  · rfl
  · split
    · rfl
    · split
      · split <;> simp
      · rfl

/-! ### What a command other than a request and reset leaves -/

/-- The claim table takes notices and ticks only, RESET_N stays, and the timebase stays in its period (R9, R46). -/
structure Passed (s t : State) : Prop where
  inReset : t.inReset = s.inReset
  told : Relation.ReflTransGen Ct.Told s.ct t.ct
  timebase : TimebaseRight s → TimebaseRight t

theorem Passed.refl (s : State) : Passed s s := ⟨rfl, .refl, id⟩

theorem Passed.trans {s t u : State} (h : Passed s t) (k : Passed t u) : Passed s u :=
  ⟨k.inReset.trans h.inReset, h.told.trans k.told, k.timebase ∘ h.timebase⟩

theorem timebaseRight_of_same {s t : State} (ht : t.timebase = s.timebase) (hd : t.ct.divider = s.ct.divider)
    (hl : t.links.dividers = s.links.dividers) (h : TimebaseRight s) : TimebaseRight t := by
  unfold TimebaseRight at h ⊢
  rw [ht, hd, hl]; exact h

/-- A change away from claim table, timebase, dividers and RESET_N. -/
theorem Passed.of_same {s t : State} (hc : t.ct = s.ct) (ht : t.timebase = s.timebase)
    (hl : t.links.dividers = s.links.dividers) (hr : t.inReset = s.inReset) : Passed s t :=
  ⟨hr, by rw [hc], timebaseRight_of_same ht (by rw [hc]) hl⟩

theorem Passed.of_enginesOnly {s t : State} (h : EnginesOnly s t) (hl : t.links.dividers = s.links.dividers) :
    Passed s t := by
  obtain ⟨⟨hc, -, -, -, -, -, hr, -⟩, ht, -⟩ := h
  exact .of_same hc ht hl hr

theorem Ct.Told.divider {c d : Ct} (h : Ct.Told c d) : d.divider = c.divider := by
  cases h with
  | level m x g => exact Ct.takeLevel_divider c m x g
  | restartStart m => exact (Ct.takeRestartStart_sameBase c m).1.2.2.2
  | restartEnd m => rfl
  | fault m cause =>
    rw [Ct.relevelled_divider]
    exact (Ct.SameBase.foldl (fun b a => Ct.die_sameBase b a _ true) _ _).1.2.2.2
  | tick => rw [Ct.relevelled_divider]; exact (Ct.takeTick_sameBase c).1.2.2.2

/-- A notice or the tick is taken at the claim table. -/
theorem Passed.of_told {s t : State} (hc : Ct.Told s.ct t.ct) (ht : t.timebase = s.timebase)
    (hl : t.links.dividers = s.links.dividers) (hr : t.inReset = s.inReset) : Passed s t :=
  ⟨hr, .single hc, timebaseRight_of_same ht hc.divider hl⟩

theorem passed_settleEngine (s : State) (e : Domain) : Passed s (s.settleEngine e) :=
  .of_enginesOnly (enginesOnly_settleEngine s e) (by simp)

theorem passed_faultModule (s : State) (e : Domain) (m : Module) (c : ModCause) : Passed s (s.faultModule e m c) :=
  .of_enginesOnly (enginesOnly_faultModule s e m c) (by simp)

theorem passed_faultDomain (s : State) (x : SwDom) (c : DomCause) : Passed s (s.faultDomain x c) :=
  .of_enginesOnly (enginesOnly_faultDomain s x c) (by simp)

theorem passed_releaseModule (s : State) (e : Domain) (m : Module) : Passed s (s.releaseModule e m) :=
  .of_enginesOnly (enginesOnly_releaseModule s e m) (by simp)

theorem passed_finishStep (s : State) (e : Domain) (t : Transition) : Passed s (s.finishStep e t) :=
  .of_enginesOnly (enginesOnly_finishStep s e t) (by simp)

theorem passed_finishDr (s : State) (ns : List (Domain × DrPosting)) : Passed s (s.finishDr ns) :=
  .of_same (by simp) (by simp) (by simp) (by simp)

/-! ### Time (R45, R46) -/

theorem passed_takeCtTick (s : State) : Passed s s.takeCtTick := by
  unfold State.takeCtTick
  refine .of_told ?_ (by simp) (by simp) (by simp)
  rw [State.relevel_ct_eq, State.onCt_ct, State.onTicks_ct]
  exact .tick

theorem passed_takeDrTick (s : State) : Passed s s.takeDrTick :=
  .trans (t := (s.onTicks fun t => { t with dr := false }).onDr _) (.of_same rfl rfl rfl rfl) (passed_finishDr _ _)

theorem passed_takeEngineTick (s : State) (e : Domain) : Passed s (s.takeEngineTick e) :=
  .trans (t := s.onTicks _) (.of_same rfl rfl rfl rfl)
    (.of_enginesOnly (State.takeEngineTick_enginesOnly s e) (by simp))

theorem passed_takeWaitingTicks (s : State) : Passed s s.takeWaitingTicks :=
  State.takeWaitingTicks_keeps (Passed s) (fun u h => h.trans (passed_takeCtTick u))
    (fun u h => h.trans (passed_takeDrTick u)) (fun u e h => h.trans (passed_takeEngineTick u e)) (.refl s)

/-- The next period begins at 0 with a divider that fits (R46). -/
theorem passed_issueTick (s : State) (d : Nat) : Passed s (s.countUnits d).issueTick := by
  refine ⟨rfl, .refl, fun h => ?_⟩
  obtain ⟨hdiv, -, hct, hlinks, -, -⟩ := h
  refine ⟨hdiv, hdiv, hct, hlinks, by simp [State.issueTick]; decide, ?_⟩
  simp only [State.issueTick, Timebase.elapsed, Nat.zero_mul, Nat.zero_add]
  exact Nat.mul_pos hdiv.1 (by decide)

theorem passed_endPeriod (s : State) : Passed s s.endPeriod := by
  unfold State.endPeriod
  exact (passed_takeWaitingTicks s).trans (passed_issueTick ..)

/-- Units that do not end the period are counted within it (R46). -/
theorem passed_countUnits {s : State} {d : Nat} (hd : d < s.timebase.left) : Passed s (s.countUnits d) := by
  refine ⟨rfl, .refl, fun h => ?_⟩
  obtain ⟨hdiv, hlen, hct, hlinks, -, -⟩ := h
  refine ⟨hdiv, hlen, hct, hlinks, Timebase.advance_usCount_lt .., ?_⟩
  rw [State.countUnits_timebase, Timebase.advance_elapsed, Timebase.advance_periodLength]
  unfold Timebase.left at hd
  omega

theorem passed_elapse (s : State) (d : Nat) : Passed s (s.elapse d) := by
  suffices h : ∀ (fuel n : Nat) (u : State), Passed u (State.passUnits fuel n u) from h d d s
  intro fuel
  induction fuel with
  | zero => exact fun _ u => .refl u
  | succ f ih =>
    intro n u
    unfold State.passUnits
    split
    · exact passed_countUnits ‹_›
    · exact (passed_endPeriod u).trans (ih _ _)

/-! ### Edges (R45) -/

theorem passed_takeReadyRise (s : State) (m : Module) : Passed s (s.takeReadyRise m) := by
  unfold State.takeReadyRise
  dsimp only
  split
  · exact .refl s
  · split
    · exact (passed_finishStep ..).trans (passed_settleEngine ..)
    · exact .refl s

theorem passed_takeReadyFall (s : State) (m : Module) : Passed s (s.takeReadyFall m) := by
  unfold State.takeReadyFall
  dsimp only
  split
  · split
    · exact (passed_finishStep ..).trans (passed_settleEngine ..)
    · split
      · exact (passed_faultModule ..).trans (passed_settleEngine ..)
      · exact .refl s
  · exact .refl s

theorem passed_takeWakeRise (s : State) (m : Module) : Passed s (s.takeWakeRise m) := by
  unfold State.takeWakeRise
  dsimp only
  split
  · exact .trans (t := s.onDr _) (.of_same rfl rfl rfl rfl) (passed_finishDr ..)
  · split
    · exact .of_same rfl rfl rfl rfl
    · exact .refl s

theorem passed_takeWakeFall (s : State) (m : Module) : Passed s (s.takeWakeFall m) := by
  unfold State.takeWakeFall
  split
  · exact .trans (t := s.onDr _) (.of_same rfl rfl rfl rfl) (passed_finishDr ..)
  · exact .refl s

theorem passed_takePowerRise (s : State) (x : SwDom) : Passed s (s.takePowerRise x) := by
  unfold State.takePowerRise
  split
  · exact .trans (t := s.completeRampUp x) (.of_same rfl rfl rfl rfl) (passed_settleEngine ..)
  · exact .refl s

theorem passed_takePowerFall (s : State) (x : SwDom) : Passed s (s.takePowerFall x) := by
  unfold State.takePowerFall
  split
  · exact .trans (t := s.completeRampDown x) (.of_same rfl rfl rfl rfl) (passed_settleEngine ..)
  · exact (passed_faultDomain ..).trans (passed_settleEngine ..)
  · exact (passed_faultDomain ..).trans (passed_settleEngine ..)
  · exact .refl s
  · exact .refl s
  · exact .refl s

theorem passed_takeEdge (s : State) (g : Edge) : Passed s (s.takeEdge g) := by
  unfold State.takeEdge
  split
  · split
    · exact passed_takeReadyRise ..
    · exact passed_takeReadyFall ..
  · split
    · exact passed_takeWakeRise ..
    · exact passed_takeWakeFall ..
  · split
    · exact passed_takePowerRise ..
    · exact passed_takePowerFall ..

theorem passed_takeWaiting (s : State) (g : Edge) : Passed s (s.takeWaiting g) :=
  .trans (t := s.onPins _) (.of_same rfl rfl rfl rfl) (passed_takeEdge _ g)

/-- What one block does, awake or not. -/
theorem Passed.awake {s : State} {f : State → State} (h : Passed s (f s)) : Passed s (s.awake f) :=
  State.awake_keeps (Passed s) f (.refl s) fun _ => h

theorem passed_drive (s : State) (g : Edge) : Passed s (s.drive g) := by
  unfold State.drive
  split
  · exact .refl s
  · exact .of_same rfl rfl rfl rfl

/-- A pin is driven and its edges are taken. -/
theorem passed_edges (s : State) (g : Edge) (p : Pin) : Passed s ((s.drive g).takeEdges p) :=
  (passed_drive s g).trans
    (.awake (foldl_keeps (Passed (s.drive g)) State.takeWaiting (fun u k hu => hu.trans (passed_takeWaiting u k)) _ _
      (.refl _)))

theorem passed_idle (s : State) : Passed s s.idle := by
  unfold State.idle
  split
  · exact .of_same rfl rfl rfl rfl
  · refine .awake ?_
    split
    · exact passed_takeWaiting ..
    · exact passed_elapse ..

end Sys2Proof.Machine


namespace Sys2Proof.Machine

/-! ### What the body of a request leaves -/

/-- A request of port `p` changes the claim table as `Ct.Asked` says, no other port controller, and neither RESET_N nor
the timebase's place in its period. -/
structure Acted (p : Port) (s t : State) : Prop where
  asked : Ct.Asked p s.ct t.ct
  ports : ∀ q : Port, q ≠ p → t.ports[q] = s.ports[q]
  inReset : t.inReset = s.inReset
  timebase : TimebaseRight s → TimebaseRight t

theorem Ct.Asked.refl (p : Port) (ct : Ct) : Ct.Asked p ct ct := .records ct rfl rfl rfl rfl

theorem Acted.of_same {p : Port} {s t : State} (hc : Ct.Asked p s.ct t.ct) (hd : t.ct.divider = s.ct.divider)
    (hp : ∀ q : Port, q ≠ p → t.ports[q] = s.ports[q]) (ht : t.timebase = s.timebase)
    (hl : t.links.dividers = s.links.dividers) (hr : t.inReset = s.inReset) : Acted p s t :=
  ⟨hc, hp, hr, timebaseRight_of_same ht hd hl⟩

theorem Acted.refl (p : Port) (s : State) : Acted p s s := .of_same (.refl p s.ct) rfl (fun _ _ => rfl) rfl rfl rfl

theorem Ct.SameBase.onPort {c d : Ct} (h : c.SameBase d) (p : Port) (f : CtPort → CtPort) : c.SameBase (d.onPort p f) := h

theorem Ct.SameBase.dropCursors {c d : Ct} (h : c.SameBase d) : c.SameBase d.dropCursors := h

/-- The claim table changes, and claimed levels are worked out. -/
theorem Acted.of_relevel {p : Port} {s : State} {f : Ct → Ct} (hc : Ct.Asked p s.ct (f s.ct).relevelled)
    (hd : s.ct.SameBase (f s.ct)) : Acted p s (s.onCt f).relevel := by
  refine .of_same (by rw [State.relevel_ct_eq]; exact hc) ?_ (by simp) (by simp) (by simp) (by simp)
  rw [State.relevel_ct_eq, Ct.relevelled_divider]
  exact hd.1.2.2.2

theorem Acted.of_onPort {p : Port} {s t : State} (h : Acted p s t) (f : PortRec → PortRec) : Acted p s (t.onPort p f) := by
  obtain ⟨hc, hp, hr, ht⟩ := h
  refine ⟨hc, fun q hq => ?_, hr, ht⟩
  rw [State.onPort_ports, modifyAt_get, if_neg hq, hp q hq]

/-- The whole of a request: it is taken, carried out and answered (R26, R155). -/
theorem Acted.served {p : Port} {s u : State} (h : Acted p (s.takeRequest p) u) (n : BitVec 4) (a : Answer) :
    Acted p s (u.writeAnswer p n a) := by
  obtain ⟨hc, hp, hr, ht⟩ := h
  refine ⟨hc, fun q hq => ?_, hr, ht⟩
  rw [State.writeAnswer_ports, modifyAt_get, if_neg hq, hp q hq, State.takeRequest_ports, modifyAt_get, if_neg hq]

/-! ### Each body (chapters 1, 2, 10 and 11) -/

theorem State.handle_eq_some {s : State} {r : Request} {sl : Slot} {c : Claim} (h : s.handle r = some (sl, c)) :
    s.ct.claimAt sl = some c := (Ct.resolve_eq_some.1 h).2.2

theorem placeBody_acted (p : Port) (r : Request) (s : State) : Acted p s (placeBody p r s).1 := by
  unfold placeBody
  split
  · rename_i m l hm hl
    repeat' split
    all_goals try exact .refl p s
    rename_i sl hs
    exact .of_relevel (.place sl m l _ _ (Ct.freeSlot?_free hs) (claimLevelOf_eq_some.1 hl).2
      (Nat.le_of_lt_succ (r.half 4).isLt)) Ct.fill_sameBase
  · exact .refl p s

theorem changeBody_acted (p : Port) (r : Request) (s : State) : Acted p s (changeBody p r s).1 := by
  unfold changeBody
  split
  · exact .refl p s
  · rename_i sl c hh
    split
    · exact .refl p s
    · rename_i hp
      split
      · exact .refl p s
      · rename_i hlive
        split
        · exact .refl p s
        · rename_i l hl
          split
          · exact .refl p s
          · split
            · exact .refl p s
            · exact .of_relevel (.change sl c l (State.handle_eq_some hh) (not_not.1 hp) (by simpa using hlive)
                (claimLevelOf_eq_some.1 hl).2) (.refl s.ct)

theorem renewBody_acted (p : Port) (r : Request) (s : State) : Acted p s (renewBody p r s).1 := by
  unfold renewBody
  split
  · exact .refl p s
  · rename_i sl c hh
    split
    · exact .refl p s
    · rename_i hp
      split
      · exact .refl p s
      · rename_i hlive
        split
        · exact .refl p s
        · rename_i hlen
          refine .of_same (.renew sl c _ (State.handle_eq_some hh) (not_not.1 hp) (by simpa using hlive) ?_ ?_) rfl
            (fun _ _ => rfl) rfl rfl rfl
          · split
            · exact hlen
            · assumption
          · split
            · exact .inl rfl
            · exact .inr (Nat.le_of_lt_succ (r.half 4).isLt)

theorem releaseBody_acted (p : Port) (r : Request) (s : State) : Acted p s (releaseBody p r s).1 := by
  unfold releaseBody
  split
  · exact .refl p s
  · rename_i sl c hh
    split
    · exact .refl p s
    · exact .of_relevel (.release sl c (State.handle_eq_some hh) (not_not.1 ‹_›)) (Ct.freeSlot_sameBase ..)

theorem queryClaimBody_acted (p : Port) (r : Request) (s : State) : Acted p s (queryClaimBody p r s).1 := by
  unfold queryClaimBody
  split <;> exact .refl p s

theorem queryModuleBody_acted (p : Port) (r : Request) (s : State) : Acted p s (queryModuleBody p r s).1 := by
  unfold queryModuleBody
  split <;> exact .refl p s

theorem queryDomainBody_acted (p : Port) (r : Request) (s : State) : Acted p s (queryDomainBody p r s).1 := by
  unfold queryDomainBody
  split <;> exact .refl p s

theorem browseBody_acted (p : Port) (r : Request) (s : State) : Acted p s (browseBody p r s).1 := by
  unfold browseBody
  split
  · exact .refl p s
  · rename_i m _
    exact .of_same (.browse { module := m, after := none } fun _ h => by cases h) rfl (fun _ _ => rfl) rfl rfl rfl

theorem mem_of_successor {l : List Slot} {a b : Slot} (h : successor l a = some b) : b ∈ l := by
  induction l with
  | nil => cases h
  | cons x l ih =>
    unfold successor at h
    split at h
    · exact List.mem_cons_of_mem _ (List.mem_of_head? h)
    · exact List.mem_cons_of_mem _ (ih h)

/-- The claim that follows a cursor stands in the cursor's list (R23). -/
theorem Ct.mem_of_following {ct : Ct} {c : Cursor} {sl : Slot} (h : ct.following c = some sl) : sl ∈ ct.lists[c.module] := by
  unfold Ct.following at h
  split at h
  · exact List.mem_of_head? h
  · exact mem_of_successor h

theorem browseNextBody_acted (p : Port) (r : Request) (s : State) : Acted p s (browseNextBody p r s).1 := by
  unfold browseNextBody
  split
  · exact .refl p s
  · rename_i cur _
    split
    · exact .refl p s
    · rename_i sl c hf
      obtain ⟨x, hx, hc⟩ := Option.bind_eq_some_iff.1 hf
      obtain ⟨d, -, hd⟩ := Option.map_eq_some_iff.1 hc
      cases hd
      refine .of_same (.browse { module := cur.module, after := some sl } fun y hy => ?_) rfl (fun _ _ => rfl) rfl rfl rfl
      cases hy
      exact Ct.mem_of_following (c := cur) hx

theorem takeChangeBody_acted (p : Port) (r : Request) (s : State) : Acted p s (takeChangeBody p r s).1 := by
  unfold takeChangeBody
  split
  · exact .refl p s
  · rename_i sl rest hc
    exact .of_same (.takeChange sl rest hc) rfl (fun _ _ => rfl) rfl rfl rfl

theorem takeAlertBody_acted (p : Port) (r : Request) (s : State) : Acted p s (takeAlertBody p r s).1 := by
  unfold takeAlertBody
  split
  · exact .refl p s
  · exact (Acted.refl p s).of_onPort _

theorem setNotifyBody_acted (p : Port) (r : Request) (s : State) : Acted p s (setNotifyBody p r s).1 := by
  unfold setNotifyBody
  split
  · exact .refl p s
  · exact (Acted.refl p s).of_onPort _

/-- Records of modules change, and postings set out. -/
theorem Acted.of_records {p : Port} {s t : State} (hs : t.ct.slots = s.ct.slots) (hl : t.ct.lists = s.ct.lists)
    (hc : t.ct.claimed = s.ct.claimed) (hp : t.ct.ports = s.ct.ports) (hd : t.ct.divider = s.ct.divider)
    (hports : t.ports = s.ports) (ht : t.timebase = s.timebase) (hk : t.links.dividers = s.links.dividers)
    (hr : t.inReset = s.inReset) : Acted p s t :=
  .of_same (.records t.ct hs hl hc hp) hd (fun _ _ => by rw [hports]) ht hk hr

theorem postEngine_acted (p : Port) (s : State) (e : Domain) (n : CtPosting) : Acted p s (s.postEngine e n) :=
  .of_records rfl rfl rfl rfl rfl rfl rfl rfl rfl

theorem restartBody_acted (p : Port) (r : Request) (s : State) : Acted p s (restartBody p r s).1 := by
  unfold restartBody
  repeat' split
  all_goals try exact .refl p s
  exact .of_records rfl rfl rfl rfl rfl rfl rfl rfl rfl

theorem clearModuleFaultBody_acted (p : Port) (r : Request) (s : State) : Acted p s (clearModuleFaultBody p r s).1 := by
  unfold clearModuleFaultBody
  repeat' split
  all_goals try exact .refl p s
  all_goals exact postEngine_acted ..

theorem detachBody_acted (p : Port) (r : Request) (s : State) : Acted p s (detachBody p r s).1 := by
  unfold detachBody
  refine Acted.of_onPort (.of_relevel ?_ ?_) _
  · exact .detach
  · exact .onPort (Ct.freeAll_sameBase ..) ..

/-! ### The control port's bodies -/

/-- What a control-port body does as HP0, its command does for every port (R158). -/
theorem controlOnly_acted {body : Request → State → State × Answer} (h : ∀ r s, Acted 0 s (body r s).1) (p : Port)
    (r : Request) (s : State) : Acted p s (controlOnly body p r s).1 := by
  unfold controlOnly
  split
  · subst_vars; exact h r s
  · exact .refl p s

theorem setModuleBody_acted (r : Request) (s : State) : Acted 0 s (setModuleBody r s).1 := by
  unfold setModuleBody
  split
  · exact .refl 0 s
  · split
    · exact .refl 0 s
    · split
      · exact .refl 0 s
      · split
        · exact .refl 0 s
        · dsimp only
          split <;> exact .of_records rfl rfl rfl rfl rfl rfl rfl rfl rfl

theorem setModuleTimingBody_acted (r : Request) (s : State) : Acted 0 s (setModuleTimingBody r s).1 := by
  unfold setModuleTimingBody
  repeat' split
  all_goals try exact .refl 0 s
  exact postEngine_acted ..

theorem setDomainBody_acted (r : Request) (s : State) : Acted 0 s (setDomainBody r s).1 := by
  unfold setDomainBody
  repeat' split
  all_goals try exact .refl 0 s
  exact postEngine_acted ..

theorem setKeepOnBody_acted (r : Request) (s : State) : Acted 0 s (setKeepOnBody r s).1 := by
  unfold setKeepOnBody
  split
  · exact .of_records rfl rfl rfl rfl rfl rfl rfl rfl rfl
  · exact .refl 0 s

theorem setQuotaBody_acted (r : Request) (s : State) : Acted 0 s (setQuotaBody r s).1 := by
  unfold setQuotaBody
  repeat' split
  all_goals try exact .refl 0 s
  exact .of_same (.setQuota rfl ..) rfl (fun _ _ => rfl) rfl rfl rfl

/-- A divider that SET TICK accepts fits (R47). -/
theorem setTickBody_acted (r : Request) (s : State) : Acted 0 s (setTickBody r s).1 := by
  unfold setTickBody
  dsimp only
  split
  · rename_i hn
    refine ⟨.records _ rfl rfl rfl rfl, fun _ _ => rfl, rfl, fun h => ?_⟩
    obtain ⟨hdiv, hlen, -, hlinks, hus, hin⟩ := h
    refine ⟨hdiv, hlen, hn, fun n hm => ?_, hus, hin⟩
    rcases List.mem_append.1 hm with hm | hm
    · exact hlinks n hm
    · rw [List.mem_singleton.1 hm]; exact hn
  · exact .refl 0 s

theorem evictBody_acted (r : Request) (s : State) : Acted 0 s (evictBody r s).1 := by
  unfold evictBody
  split
  · exact .refl 0 s
  · split
    · exact .of_relevel (.evict rfl ..) (Ct.die_sameBase ..)
    · exact .of_relevel (.retire rfl _) (Ct.freeSlot_sameBase ..)

theorem retireAllBody_acted (r : Request) (s : State) : Acted 0 s (retireAllBody r s).1 :=
  Acted.of_relevel (.retireAll rfl) (.dropCursors (Ct.freeAll_sameBase ..))

theorem clearDomainFaultBody_acted (r : Request) (s : State) : Acted 0 s (clearDomainFaultBody r s).1 := by
  unfold clearDomainFaultBody
  repeat' split
  all_goals try exact .refl 0 s
  exact postEngine_acted ..

/-! ### Every request command -/

/-- A request command serves a body that acts for its port alone. -/
theorem exec_request {c : Instr} {code : Byte} (h : requestCode c = some code) :
    ∃ (accepts : Byte → Bool) (body : Port → Request → State → State × Answer),
      (∀ p r s, Acted p s (body p r s).1) ∧ ∀ s, exec c s = .next (s.serve accepts body) := by
  cases c with
  | place => exact ⟨_, _, placeBody_acted, fun _ => rfl⟩
  | change => exact ⟨_, _, changeBody_acted, fun _ => rfl⟩
  | renew => exact ⟨_, _, renewBody_acted, fun _ => rfl⟩
  | release => exact ⟨_, _, releaseBody_acted, fun _ => rfl⟩
  | queryClaim => exact ⟨_, _, queryClaimBody_acted, fun _ => rfl⟩
  | queryModule => exact ⟨_, _, queryModuleBody_acted, fun _ => rfl⟩
  | queryDomain => exact ⟨_, _, queryDomainBody_acted, fun _ => rfl⟩
  | browse => exact ⟨_, _, browseBody_acted, fun _ => rfl⟩
  | browseNext => exact ⟨_, _, browseNextBody_acted, fun _ => rfl⟩
  | takeChange => exact ⟨_, _, takeChangeBody_acted, fun _ => rfl⟩
  | takeAlert => exact ⟨_, _, takeAlertBody_acted, fun _ => rfl⟩
  | setNotify => exact ⟨_, _, setNotifyBody_acted, fun _ => rfl⟩
  | restart => exact ⟨_, _, restartBody_acted, fun _ => rfl⟩
  | clearModuleFault => exact ⟨_, _, clearModuleFaultBody_acted, fun _ => rfl⟩
  | detach => exact ⟨_, _, detachBody_acted, fun _ => rfl⟩
  | setModule => exact ⟨_, _, controlOnly_acted setModuleBody_acted, fun _ => rfl⟩
  | setModuleTiming => exact ⟨_, _, controlOnly_acted setModuleTimingBody_acted, fun _ => rfl⟩
  | setDomain => exact ⟨_, _, controlOnly_acted setDomainBody_acted, fun _ => rfl⟩
  | setKeepOn => exact ⟨_, _, controlOnly_acted setKeepOnBody_acted, fun _ => rfl⟩
  | setQuota => exact ⟨_, _, controlOnly_acted setQuotaBody_acted, fun _ => rfl⟩
  | setTick => exact ⟨_, _, controlOnly_acted setTickBody_acted, fun _ => rfl⟩
  | evict => exact ⟨_, _, controlOnly_acted evictBody_acted, fun _ => rfl⟩
  | retireAll => exact ⟨_, _, controlOnly_acted retireAllBody_acted, fun _ => rfl⟩
  | clearDomainFault => exact ⟨_, _, controlOnly_acted clearDomainFaultBody_acted, fun _ => rfl⟩
  | _ => cases h

/-- Serving acts for the port whose request the arbiter takes, or does nothing. -/
theorem serve_acted {accepts : Byte → Bool} {body : Port → Request → State → State × Answer}
    (h : ∀ p r s, Acted p s (body p r s).1) (s : State) :
    s.serve accepts body = s ∨ ∃ p r, s.nextRequest = some (p, r) ∧ Acted p s (s.serve accepts body) := by
  refine State.serve_keeps (fun t => t = s ∨ ∃ p r, s.nextRequest = some (p, r) ∧ Acted p s t) (.inl rfl)
    fun p r _ hn _ => .inr ⟨p, r, hn, (h p r _).served _ _⟩

end Sys2Proof.Machine


namespace Sys2Proof.Machine

/-! ### Every event: a notice, a posting, a hand-over, a timer or an edge -/

theorem passed_dropDrNotice (s : State) (e : Domain) : Passed s (s.dropDrNotice e) := .of_same rfl rfl rfl rfl
theorem passed_dropCtPosting (s : State) (e : Domain) : Passed s (s.dropCtPosting e) := .of_same rfl rfl rfl rfl
theorem passed_dropDrPosting (s : State) (e : Domain) : Passed s (s.dropDrPosting e) := .of_same rfl rfl rfl rfl

theorem passed_onMod (s : State) (m : Module) (f : ModRec → ModRec) : Passed s (s.onMod m f) := .of_same rfl rfl rfl rfl
theorem passed_onDom (s : State) (x : SwDom) (f : DomRec → DomRec) : Passed s (s.onDom x f) := .of_same rfl rfl rfl rfl
theorem passed_onDr (s : State) (f : Dr → Dr) : Passed s (s.onDr f) := .of_same rfl rfl rfl rfl

section
variable {s t : State} {e : Domain} {m : Module} {x : SwDom}

theorem execLevelNotice_passed (h : execLevelNotice e s = .next t) : Passed s t := by
  cases h
  refine .awake ?_
  split
  · exact .of_told (.level ..) rfl rfl rfl
  all_goals exact .refl s

theorem execRestartStartNotice_passed (h : execRestartStartNotice e s = .next t) : Passed s t := by
  cases h
  refine .awake ?_
  split
  · exact .of_told (.restartStart _) rfl rfl rfl
  all_goals exact .refl s

theorem execRestartEndNotice_passed (h : execRestartEndNotice e s = .next t) : Passed s t := by
  cases h
  refine .awake ?_
  split
  · exact .of_told (.restartEnd _) rfl rfl rfl
  all_goals exact .refl s

theorem execFaultNoticeAtCt_passed (h : execFaultNoticeAtCt e s = .next t) : Passed s t := by
  cases h
  refine .awake ?_
  split
  · refine .of_told ?_ (by simp) (by simp) (by simp)
    rw [State.relevel_ct_eq, State.onCt_ct]
    exact .fault ..
  all_goals exact .refl s

theorem execSetTickHandover_passed (h : execSetTickHandover s = .next t) : Passed s t := by
  cases h
  refine .awake ?_
  split
  · exact .refl s
  · rename_i n rest hn
    refine ⟨rfl, .refl, fun hs => ?_⟩
    obtain ⟨-, hlen, hct, hlinks, hus, hin⟩ := hs
    exact ⟨hlinks n (by rw [hn]; simp), hlen, hct, fun k hk => hlinks k (by rw [hn]; exact List.mem_cons_of_mem n hk),
      hus, hin⟩

theorem execLeaseCountdown_passed (h : execLeaseCountdown s = .next t) : Passed s t := by
  cases h
  refine .awake ?_
  split
  · exact passed_takeCtTick s
  · exact .refl s

theorem execLapse_passed {sl : Slot} (h : execLapse sl s = .next t) : Passed s t := by
  cases h
  refine .awake ?_
  split
  · exact passed_takeCtTick s
  · exact .refl s

theorem execClaimedLevelNotice_passed (h : execClaimedLevelNotice m s = .next t) : Passed s t := by
  cases h
  refine .awake ?_
  split
  · exact .refl s
  · exact .trans (t := (s.onLinks _).onDr _) (.of_same rfl rfl rfl rfl) (passed_finishDr ..)

theorem passed_takeState (s : State) (m : Module) (v : DrView) : Passed s (s.takeState m v) :=
  (passed_onDr ..).trans (passed_finishDr ..)

theorem execStateNotice_passed (h : execStateNotice e s = .next t) : Passed s t := by
  cases h
  refine .awake ?_
  split
  · exact (passed_dropDrNotice ..).trans (passed_takeState ..)
  all_goals exact .refl s

theorem passed_takeDrFault (s : State) (m : Module) : Passed s (s.takeDrFault m) := by
  unfold State.takeDrFault
  split
  · exact .refl s
  · exact (passed_onDr ..).trans (passed_finishDr ..)

theorem execFaultNoticeAtDr_passed (h : execFaultNoticeAtDr e s = .next t) : Passed s t := by
  cases h
  refine .awake ?_
  split
  · exact (passed_dropDrNotice ..).trans (passed_takeDrFault ..)
  all_goals exact .refl s

theorem passed_takeModuleDr (s : State) (m : Module) (r : DirRecord) : Passed s (s.takeModuleDr m r) := by
  unfold State.takeModuleDr
  dsimp only
  refine .trans ?_ ((passed_onDr ..).trans (passed_finishDr ..))
  split
  · exact .of_same rfl rfl rfl rfl
  · exact .refl s

theorem execSetModuleHandoverDr_passed (h : execSetModuleHandoverDr m s = .next t) : Passed s t := by
  cases h
  refine .awake ?_
  split
  · exact .refl s
  · exact .trans (t := s.onLinks _) (.of_same rfl rfl rfl rfl) (passed_takeModuleDr ..)

theorem execSetKeepOnHandover_passed (h : execSetKeepOnHandover x s = .next t) : Passed s t := by
  cases h
  refine .awake ?_
  split
  · exact .refl s
  · exact .trans (t := (s.onLinks _).onDr _) (.of_same rfl rfl rfl rfl) (passed_finishDr ..)

theorem execIdleCountTick_passed (h : execIdleCountTick s = .next t) : Passed s t := by
  cases h
  refine .awake ?_
  split
  · exact passed_takeDrTick s
  · exact .refl s

theorem execIdleCountRunsOut_passed (h : execIdleCountRunsOut m s = .next t) : Passed s t := by
  cases h
  refine .awake ?_
  split
  · exact passed_takeDrTick s
  · exact .refl s

theorem execTargetPostingAtEngine_passed (h : execTargetPostingAtEngine e s = .next t) : Passed s t := by
  cases h
  refine .awake ?_
  split
  · exact ((passed_dropDrPosting ..).trans (.of_enginesOnly (enginesOnly_takeTarget ..) (by simp))).trans
      (passed_settleEngine ..)
  all_goals exact .refl s

theorem execRestartPosting_passed (h : execRestartPosting e s = .next t) : Passed s t := by
  cases h
  refine .awake ?_
  split
  · exact ((passed_dropCtPosting ..).trans (.of_enginesOnly (enginesOnly_takeRestartPosting ..) (by simp))).trans
      (passed_settleEngine ..)
  all_goals exact .refl s

theorem execNeedPosting_passed (h : execNeedPosting x s = .next t) : Passed s t := by
  cases h
  refine .awake ?_
  split
  · exact ((passed_dropDrPosting ..).trans (passed_onDom ..)).trans (passed_settleEngine ..)
  all_goals exact .refl s

theorem execSetModuleTimingHandover_passed (h : execSetModuleTimingHandover e s = .next t) : Passed s t := by
  cases h
  refine .awake ?_
  split
  · exact (passed_dropCtPosting ..).trans (passed_onMod ..)
  all_goals exact .refl s

theorem execSetDomainHandover_passed (h : execSetDomainHandover x s = .next t) : Passed s t := by
  cases h
  refine .awake ?_
  split
  · exact (passed_dropCtPosting ..).trans (passed_onDom ..)
  all_goals exact .refl s

theorem passed_letGo (s : State) (e : Domain) (m : Module) : Passed s (s.letGo e m) := .of_same rfl rfl rfl rfl

theorem passed_takeModule (s : State) (m : Module) (r : DirRecord) : Passed s (s.takeModule m r) := by
  unfold State.takeModule
  dsimp only
  refine .trans ?_ ((passed_settleEngine ..).trans (passed_settleEngine ..))
  have quiet (u : State) : Passed u ((u.letGo (s.engineDir m).domain m).onMod m (·.quieted)) :=
    (passed_letGo ..).trans (passed_onMod ..)
  have step (u : State) (p : Prop) [Decidable p] (f : State) (hf : Passed u f) : Passed u (if p then f else u) := by
    split
    · exact hf
    · exact .refl u
  refine .trans ?_ (step _ _ _ (passed_faultModule ..))
  refine .trans ?_ (step _ _ _ (passed_onMod ..))
  refine .trans (t := s.onEngines fun g => { g with dir := g.dir.set m r }) (.of_same rfl rfl rfl rfl) ?_
  split
  · exact quiet _
  · exact step _ _ _ (quiet _)

theorem execSetModuleHandoverEngine_passed (h : execSetModuleHandoverEngine e s = .next t) : Passed s t := by
  cases h
  refine .awake ?_
  split
  · split
    · dsimp only
      refine .trans ?_ (passed_takeModule ..)
      split
      · exact passed_dropCtPosting ..
      · exact (passed_dropCtPosting ..).trans (passed_dropCtPosting ..)
    · exact .refl s
  all_goals exact .refl s

theorem execHold_passed (h : execHold e s = .next t) : Passed s t := by
  cases h
  refine .awake ?_
  split
  · exact .refl s
  · split
    · exact ((passed_elapse ..).trans (passed_finishStep ..)).trans (passed_settleEngine ..)
    · exact .refl s

theorem execAckTimeout_passed (h : execAckTimeout e s = .next t) : Passed s t := by
  cases h
  refine .awake ?_
  split
  · exact .refl s
  · split
    · exact ((passed_elapse ..).trans (passed_faultModule ..)).trans (passed_settleEngine ..)
    · exact .refl s

theorem execSupplierFaultNotice_passed (h : execSupplierFaultNotice e s = .next t) : Passed s t := by
  cases h
  refine .awake ?_
  split
  · dsimp only
    refine .trans (.trans (passed_dropDrPosting s e) ?_) (passed_settleEngine ..)
    split
    · exact passed_faultModule ..
    · exact .refl _
  all_goals exact .refl s

theorem execSupplierClearNotice_passed (h : execSupplierClearNotice e s = .next t) : Passed s t := by
  cases h
  refine .awake ?_
  split
  · dsimp only
    refine .trans (.trans (passed_dropDrPosting s e) ?_) (passed_settleEngine ..)
    split
    · exact passed_releaseModule ..
    · exact .refl _
  all_goals exact .refl s

theorem execModuleClear_passed (h : execModuleClear e s = .next t) : Passed s t := by
  cases h
  refine .awake ?_
  split
  · dsimp only
    refine .trans (.trans (passed_dropCtPosting s e) ?_) (passed_settleEngine ..)
    split
    · exact passed_releaseModule ..
    · exact .refl _
  all_goals exact .refl s

theorem passed_releaseDomainModules (s : State) (x : SwDom) : Passed s (s.releaseDomainModules x) :=
  foldl_keeps (Passed s) _ (fun u m hu => by
    split
    · exact hu.trans (passed_releaseModule ..)
    · exact hu) _ _ (.refl s)

theorem execDomainClear_passed (h : execDomainClear x s = .next t) : Passed s t := by
  cases h
  refine .awake ?_
  split
  · dsimp only
    split
    · exact (((passed_dropCtPosting ..).trans (passed_onDom ..)).trans (passed_releaseDomainModules ..)).trans
        (passed_settleEngine ..)
    · exact passed_dropCtPosting ..
  all_goals exact .refl s

theorem execRampTimeout_passed (h : execRampTimeout x s = .next t) : Passed s t := by
  cases h
  refine .awake ?_
  split
  · exact ((passed_elapse ..).trans (passed_faultDomain ..)).trans (passed_settleEngine ..)
  · exact .refl s

theorem execOffTimeout_passed (h : execOffTimeout x s = .next t) : Passed s t := by
  cases h
  refine .awake ?_
  split
  · exact ((passed_elapse ..).trans (passed_faultDomain ..)).trans (passed_settleEngine ..)
  · exact .refl s

theorem execLingerTick_passed (h : execLingerTick e s = .next t) : Passed s t := by
  cases h
  refine .awake ?_
  split
  · exact passed_takeEngineTick s e
  · exact .refl s

theorem execLingerRunsOut_passed (h : execLingerRunsOut x s = .next t) : Passed s t := by
  cases h
  refine .awake ?_
  split
  · exact passed_takeEngineTick s _
  · exact .refl s

theorem execAlertPostingReachesPort_passed {p : Port} {j : Subject} {r : Reason}
    (h : execAlertPostingReachesPort p j r s = .next t) : Passed s t := by
  cases h
  refine .awake ?_
  split
  · exact .of_same rfl rfl rfl rfl
  · exact .refl s

theorem execFrameBegin_passed {p : Port} (h : execFrameBegin p s = .next t) : Passed s t := by
  cases h
  exact .of_same rfl rfl rfl rfl

theorem passed_classify (s : State) (p : Port) (bytes : List Byte) : Passed s (s.classify p bytes) := by
  unfold State.classify
  split
  · exact .refl s
  · split
    · exact .refl s
    · split
      · exact .of_same rfl rfl rfl rfl
      · split <;> exact .of_same rfl rfl rfl rfl

theorem execFrameEnd_passed {p : Port} {bits : List Bool} (h : execFrameEnd p bits s = .next t) : Passed s t := by
  cases h
  split
  · exact .refl s
  · exact .of_same rfl rfl rfl rfl
  · exact .trans (t := s.onPort p _) (.of_same rfl rfl rfl rfl) (passed_classify ..)

end

/-! ### Every command and every step -/

/-- Every command but device reset acts for one port, or passes a notice, a tick or nothing to the claim table. -/
theorem exec_effect {c : Instr} {s t : State} (h : exec c s = .next t) (h1 : c ≠ .deviceResetAsserted)
    (h2 : c ≠ .deviceResetReleased) : Passed s t ∨ ∃ p, Acted p s t := by
  have served {accepts : Byte → Bool} {body : Port → Request → State → State × Answer}
      (hb : ∀ p r s, Acted p s (body p r s).1) (he : exec c s = .next (s.serve accepts body)) :
      Passed s t ∨ ∃ p, Acted p s t := by
    cases he.symm.trans h
    rcases serve_acted (accepts := accepts) hb s with hs | ⟨p, r, -, ha⟩
    · exact .inl (hs.symm ▸ .refl s)
    · exact .inr ⟨p, ha⟩
  have edge {g : Edge} {p : Pin} (he : exec c s = .next ((s.drive g).takeEdges p)) : Passed s t ∨ ∃ p, Acted p s t := by
    cases he.symm.trans h
    exact .inl (passed_edges s g p)
  cases hcode : requestCode c with
  | some code =>
    obtain ⟨accepts, body, hb, he⟩ := exec_request hcode
    exact served hb (he s)
  | none =>
    cases c with
    | badCommand => exact served (fun p _ s => .refl p s) rfl
    | deviceResetAsserted => exact absurd rfl h1
    | deviceResetReleased => exact absurd rfl h2
    | frameBegin p => exact .inl (execFrameBegin_passed h)
    | frameEnd p bits => exact .inl (execFrameEnd_passed h)
    | levelNotice e => exact .inl (execLevelNotice_passed h)
    | restartStartNotice e => exact .inl (execRestartStartNotice_passed h)
    | restartEndNotice e => exact .inl (execRestartEndNotice_passed h)
    | faultNoticeAtCt e => exact .inl (execFaultNoticeAtCt_passed h)
    | tick => cases h; exact .inl (.awake (passed_endPeriod s))
    | setTickHandover => exact .inl (execSetTickHandover_passed h)
    | leaseCountdown => exact .inl (execLeaseCountdown_passed h)
    | lapse sl => exact .inl (execLapse_passed h)
    | claimedLevelNotice m => exact .inl (execClaimedLevelNotice_passed h)
    | stateNotice e => exact .inl (execStateNotice_passed h)
    | faultNoticeAtDr e => exact .inl (execFaultNoticeAtDr_passed h)
    | setModuleHandoverDr m => exact .inl (execSetModuleHandoverDr_passed h)
    | setModuleHandoverEngine e => exact .inl (execSetModuleHandoverEngine_passed h)
    | setKeepOnHandover x => exact .inl (execSetKeepOnHandover_passed h)
    | setModuleTimingHandover e => exact .inl (execSetModuleTimingHandover_passed h)
    | setDomainHandover x => exact .inl (execSetDomainHandover_passed h)
    | mwakeRise m => exact edge rfl
    | mwakeFall m => exact edge rfl
    | idleCountTick => exact .inl (execIdleCountTick_passed h)
    | idleCountRunsOut m => exact .inl (execIdleCountRunsOut_passed h)
    | targetPostingAtEngine e => exact .inl (execTargetPostingAtEngine_passed h)
    | needPosting x => exact .inl (execNeedPosting_passed h)
    | restartPosting e => exact .inl (execRestartPosting_passed h)
    | takeEntry e => cases h; exact .inl (.awake (passed_settleEngine s e))
    | hold e => exact .inl (execHold_passed h)
    | mrdyRise m => exact edge rfl
    | mrdyFall m => exact edge rfl
    | ackTimeout e => exact .inl (execAckTimeout_passed h)
    | supplierFaultNotice e => exact .inl (execSupplierFaultNotice_passed h)
    | supplierClearNotice e => exact .inl (execSupplierClearNotice_passed h)
    | moduleClear e => exact .inl (execModuleClear_passed h)
    | domainClear x => exact .inl (execDomainClear_passed h)
    | dpgRise x => exact edge rfl
    | dpgFall x => exact edge rfl
    | rampTimeout x => exact .inl (execRampTimeout_passed h)
    | offTimeout x => exact .inl (execOffTimeout_passed h)
    | lingerTick e => exact .inl (execLingerTick_passed h)
    | lingerRunsOut x => exact .inl (execLingerRunsOut_passed h)
    | alertPostingReachesPort p j r => exact .inl (execAlertPostingReachesPort_passed h)
    | _ => cases hcode

/-- Every step asserts RESET_N, releases it, acts for one port, or passes a notice, ticks or nothing to the claim table. -/
theorem step_effect {s t : State} (h : step s = .next t) :
    (s.pending.head? = some .deviceResetAsserted ∧ ∃ u, exec .deviceResetAsserted u = .next t) ∨
      (∃ rest, t = { s with pending := rest, inReset := false }) ∨
      ∃ u : State, (∃ rest, u = { s with pending := rest }) ∧ (Passed u t ∨ ∃ p, Acted p u t) := by
  unfold step at h
  cases hp : s.pending with
  | nil =>
    rw [hp] at h
    cases h
    exact .inr (.inr ⟨s, ⟨[], by rw [← hp]⟩, .inl (passed_idle s)⟩)
  | cons c rest =>
    rw [hp] at h
    by_cases h1 : c = .deviceResetAsserted
    · subst h1
      exact .inl ⟨rfl, _, h⟩
    · by_cases h2 : c = .deviceResetReleased
      · subst h2
        cases h
        exact .inr (.inl ⟨rest, rfl⟩)
      · exact .inr (.inr ⟨_, ⟨rest, rfl⟩, exec_effect h h1 h2⟩)

/-- What every notice and tick keeps, any number of them keep. -/
theorem told_keeps {P : Ct → Prop} (ht : ∀ c d, Ct.Told c d → P c → P d) {c d : Ct}
    (h : Relation.ReflTransGen Ct.Told c d) (hc : P c) : P d := by
  induction h with
  | refl => exact hc
  | tail _ hstep ih => exact ht _ _ hstep ih

/-- What every change of the claim table keeps, and its reset values have, every step keeps. -/
theorem step_keeps_ct {P : Ct → Prop} (hreset : P Ct.reset) (ha : ∀ p c d, Ct.Asked p c d → P c → P d)
    (ht : ∀ c d, Ct.Told c d → P c → P d) {s t : State} (h : step s = .next t) (hs : P s.ct) : P t.ct := by
  rcases step_effect h with ⟨-, u, hu⟩ | ⟨rest, rfl⟩ | ⟨u, ⟨rest, rfl⟩, hp | ⟨p, hp⟩⟩
  · cases hu; exact hreset
  · exact hs
  · exact told_keeps ht hp.told hs
  · exact ha p _ _ hp.asked hs

end Sys2Proof.Machine


namespace Sys2Proof.Machine

/-! ### After device reset -/

@[simp] theorem Ct.reset_claimAt (sl : Slot) : Ct.reset.claimAt sl = none := by simp [Ct.reset, Ct.claimAt]

@[simp] theorem Ct.reset_gen (sl : Slot) : Ct.reset.slots[sl].gen = 0 := by simp [Ct.reset]

@[simp] theorem Ct.reset_lists (m : Module) : Ct.reset.lists[m] = [] := by simp [Ct.reset]

@[simp] theorem Ct.reset_ports (p : Port) :
    Ct.reset.ports[p] = { count := 0, quota := Config.resetQuota, changes := [], cursor := none } := by simp [Ct.reset]

theorem Ct.reset_tracked : Ct.reset.Tracked ∧ Ct.reset.ClaimedRight := by
  refine ⟨⟨fun m => ?_, fun p c hc => ?_⟩, fun m => ?_⟩
  · rw [Ct.reset_lists]
    exact ⟨.nil, fun sl => by simp [Ct.liveOn]⟩
  · rw [Ct.reset_ports] at hc; cases hc
  · unfold Ct.worked
    rw [Ct.reset_lists]
    simp [Ct.reset, highest]

theorem Ct.reset_accounted : Ct.reset.Accounted := by
  refine ⟨fun p => ?_, fun p => ?_, fun sl c hc => ?_⟩
  · rw [Ct.reset_ports]
    simp [Ct.countClaims]
  · rw [Ct.reset_ports]
    exact ⟨.nil, fun _ h => by cases h⟩
  · rw [Ct.reset_claimAt] at hc; cases hc

/-! ### While RESET_N is asserted (R25, R45, R154) -/

/-- While RESET_N is asserted, and while REFCLK stands still, every command that REFCLK clocks changes nothing. -/
theorem exec_standing {c : Instr} {s : State} (h : s.isRunning = false) (hc : needsRefclk c = true) :
    exec c s = .next s := by
  have idle (f : State → State) : (.next (s.awake f) : Res) = .next s := by rw [State.awake, h]; rfl
  cases c with
  | frameBegin p => cases hc
  | frameEnd p bits => cases hc
  | mrdyRise m => cases hc
  | mrdyFall m => cases hc
  | mwakeRise m => cases hc
  | mwakeFall m => cases hc
  | dpgRise x => cases hc
  | dpgFall x => cases hc
  | deviceResetAsserted => cases hc
  | deviceResetReleased => cases hc
  | _ => exact idle _

/-- A state that differs in the ports' frames and the pins' levels only. -/
theorem ResetHeld.of_frames {s t : State} (h : ResetHeld s) (hr : s.inReset = true) (hc : t.ct = s.ct) (hd : t.dr = s.dr)
    (he : t.engines = s.engines) (ht : t.timebase = s.timebase) (hk : t.ticks = s.ticks) (hl : t.links = s.links)
    (hs : t.lastServed = s.lastServed) (hg : t.pins.edges = s.pins.edges)
    (hp : ∀ p : Port, ∃ w, t.ports[p] = { s.ports[p] with wire := w } ∧ (w = .deselected ∨ w = .ignored)) :
    ResetHeld t := fun _ => by
  obtain ⟨h1, h2, h3, h4, h5, h6, h7, h8, h9⟩ := h hr
  refine ⟨hc.trans h1, hd.trans h2, he.trans h3, ht.trans h4, hk.trans h5, hl.trans h6, hs.trans h7, hg.trans h8,
    fun p => ?_⟩
  obtain ⟨w, hw, ho⟩ := hp p
  rw [hw]
  refine ⟨?_, ho⟩
  rw [(h9 p).1]

/-- A state that differs in the pins' levels only. -/
theorem ResetHeld.of_pins {s t : State} (h : ResetHeld s) (hr : s.inReset = true) (hc : t.ct = s.ct) (hd : t.dr = s.dr)
    (he : t.engines = s.engines) (ht : t.timebase = s.timebase) (hk : t.ticks = s.ticks) (hl : t.links = s.links)
    (hs : t.lastServed = s.lastServed) (hg : t.pins.edges = s.pins.edges) (hp : t.ports = s.ports) : ResetHeld t :=
  h.of_frames hr hc hd he ht hk hl hs hg fun p => by
    obtain ⟨-, -, -, -, -, -, -, -, h9⟩ := h hr
    exact ⟨s.ports[p].wire, by rw [hp], (h9 p).2⟩

theorem edges_resetHeld {s : State} (h : ResetHeld s) (hr : s.inReset = true) (g : Edge) (p : Pin) :
    ResetHeld ((s.drive g).takeEdges p) := by
  unfold State.takeEdges
  rw [State.awake_inReset _ ((passed_drive s g).inReset.trans hr)]
  unfold State.drive
  split
  · exact h
  · exact h.of_pins hr rfl rfl rfl rfl rfl rfl rfl (by simp) rfl

theorem frameBegin_resetHeld {s : State} (h : ResetHeld s) (hr : s.inReset = true) (p : Port) (f : PortRec → PortRec)
    (hf : ∀ q : PortRec, q.wire = .deselected ∨ q.wire = .ignored →
      ∃ w, f q = { q with wire := w } ∧ (w = .deselected ∨ w = .ignored)) : ResetHeld (s.onPort p f) := by
  obtain ⟨-, -, -, -, -, -, -, -, h9⟩ := h hr
  refine h.of_frames hr rfl rfl rfl rfl rfl rfl rfl rfl fun q => ?_
  rw [State.onPort_ports, modifyAt_get]
  split
  · exact hf _ (h9 q).2
  · exact ⟨_, rfl, (h9 q).2⟩

/-- In device reset a command leaves every block at its reset values (R25, R46, R73, R96, R154, R167). -/
theorem exec_resetHeld {c : Instr} {s t : State} (h : exec c s = .next t) (hr : s.inReset = true) (hs : ResetHeld s)
    (h1 : c ≠ .deviceResetAsserted) (h2 : c ≠ .deviceResetReleased) : ResetHeld t := by
  have hrun : s.isRunning = false := by simp [State.isRunning, hr]
  cases hn : needsRefclk c with
  | true => cases (exec_standing hrun hn).symm.trans h; exact hs
  | false =>
    cases c with
    | deviceResetAsserted => exact absurd rfl h1
    | deviceResetReleased => exact absurd rfl h2
    | mrdyRise m => cases h; exact edges_resetHeld hs hr _ _
    | mrdyFall m => cases h; exact edges_resetHeld hs hr _ _
    | mwakeRise m => cases h; exact edges_resetHeld hs hr _ _
    | mwakeFall m => cases h; exact edges_resetHeld hs hr _ _
    | dpgRise x => cases h; exact edges_resetHeld hs hr _ _
    | dpgFall x => cases h; exact edges_resetHeld hs hr _ _
    | frameBegin p =>
      cases h
      refine frameBegin_resetHeld hs hr p _ fun q hq => ?_
      obtain ⟨slot, holder, overrun, frameMark, alerts, notify, wire⟩ := q
      rcases hq with hq | hq
      · cases hq; exact ⟨.ignored, by rw [hr]; rfl, .inr rfl⟩
      · cases hq; exact ⟨.ignored, rfl, .inr rfl⟩
    | frameEnd p bits =>
      cases h
      obtain ⟨-, -, -, -, -, -, -, -, h9⟩ := hs hr
      split
      · exact hs
      · exact frameBegin_resetHeld hs hr p _ fun q _ => ⟨.deselected, rfl, .inl rfl⟩
      · rename_i hw
        rcases (h9 p).2 with h0 | h0
        · cases hw.symm.trans h0
        · cases hw.symm.trans h0
    | _ => cases hn

theorem State.reset_timebaseRight : TimebaseRight State.reset := by
  refine ⟨by decide, by decide, by decide, fun n hn => (by cases hn), by decide, by decide⟩

section
variable {s t : State} (h : exec .deviceResetAsserted s = .next t)
include h

theorem timebaseRight_reset : TimebaseRight t := by
  cases h
  exact timebaseRight_of_same (s := State.reset) rfl rfl rfl State.reset_timebaseRight

/-- A port controller in device reset: a frame in progress is ignored to its end (R154). -/
theorem reset_port (p : Port) : t.ports[p] =
    { PortRec.reset with wire := if s.ports[p].wire = .deselected then .deselected else .ignored } := by
  cases h
  dsimp only
  rw [Fin.getElem_fin, Vector.getElem_ofFn]
  cases s.ports[p].wire <;> rfl

/-- DEVICE_RESET_ASSERTED loads the reset values (R25, R46, R73, R96, R154, R167). -/
theorem resetHeld_reset : ResetHeld t := by
  have hp := reset_port h
  cases h
  refine fun _ => ⟨rfl, rfl, rfl, rfl, rfl, rfl, rfl, rfl, fun p => ?_⟩
  rw [hp p]
  refine ⟨rfl, ?_⟩
  dsimp only
  split
  · exact .inl rfl
  · exact .inr rfl

end

theorem step_resetHeld {s t : State} (h : step s = .next t) (hs : ResetHeld s) : ResetHeld t := by
  cases hr : s.inReset with
  | false =>
    rcases step_effect h with ⟨-, u, hu⟩ | ⟨rest, rfl⟩ | ⟨u, ⟨rest, rfl⟩, hp | ⟨p, hp⟩⟩
    · exact resetHeld_reset hu
    · exact fun h => by cases h
    · exact fun h => by rw [hp.inReset, hr] at h; cases h
    · exact fun h => by rw [hp.inReset, hr] at h; cases h
  | true =>
    unfold step at h
    cases hp : s.pending with
    | nil =>
      rw [hp] at h
      cases h
      unfold State.idle
      split
      · exact hs.of_pins hr rfl rfl rfl rfl rfl rfl rfl rfl rfl
      · rw [State.awake_inReset _ hr]; exact hs
    | cons c rest =>
      rw [hp] at h
      have hu : ResetHeld { s with pending := rest } := hs
      by_cases h1 : c = .deviceResetAsserted
      · subst h1; exact resetHeld_reset h
      · by_cases h2 : c = .deviceResetReleased
        · subst h2; cases h; exact fun h => by cases h
        · exact exec_resetHeld h hr hu h1 h2

end Sys2Proof.Machine


namespace Sys2Proof.Machine

/-! ### The statements about every step -/

/-- Settles O53: of all changes only the freeing of a slot moves its generation, and the changes that are not requests
leave every slot's generation and holder (`Ct.InPlace`). -/
theorem generationsRiseOnlyAtFreeing : Obligations.GenerationsRiseOnlyAtFreeing := by
  unfold Obligations.GenerationsRiseOnlyAtFreeing
  refine ⟨Ct.reset_gen, fun s sl => ⟨_, rfl, Ct.reset_gen sl⟩, fun s t h hne => ?_⟩
  rcases step_effect h with ⟨hh, -⟩ | ⟨rest, rfl⟩ | ⟨u, ⟨rest, rfl⟩, hp | ⟨p, hp⟩⟩
  · exact absurd hh hne
  · exact Ct.GensFollow.of_slots (c := s.ct) rfl
  · have hplace : s.ct.InPlace t.ct :=
      told_keeps (P := s.ct.InPlace) (fun _ _ hstep hc => hc.trans hstep.inPlace) hp.told (.of_same rfl rfl)
    exact hplace.gensFollow
  · exact hp.asked.gensFollow

/-- Settles O54, by what each change of the claim table does to lists and cursors. -/
theorem everyStepKeepsTheClaimLists : Obligations.EveryStepKeepsTheClaimLists := by
  unfold Obligations.EveryStepKeepsTheClaimLists
  intro s t ⟨hl, hc, hk⟩ h
  obtain ⟨⟨hl, hc⟩, hk⟩ := step_keeps_ct (P := fun c => c.Tracked ∧ c.ClaimedRight) Ct.reset_tracked
    (fun _ _ _ ha => ha.tracked) (fun _ _ ht => ht.tracked) h ⟨⟨hl, hc⟩, hk⟩
  exact ⟨hl, hc, hk⟩

/-- Settles O55, by what each change of the claim table does to counts, change sets and claims. -/
theorem everyStepKeepsCountsChangesAndLeases : Obligations.EveryStepKeepsCountsChangesAndLeases := by
  unfold Obligations.EveryStepKeepsCountsChangesAndLeases
  intro s t hs h
  exact step_keeps_ct (P := Ct.Accounted) Ct.reset_accounted (fun _ _ _ ha => ha.accounted)
    (fun _ _ ht => ht.accounted) h hs

/-- Settles O57: what passes without device reset keeps the timebase in its period (`Passed`, `Acted`), and in device
reset only frames and pin levels move. -/
theorem everyStepKeepsTheTimebaseAndReset : Obligations.EveryStepKeepsTheTimebaseAndReset := by
  unfold Obligations.EveryStepKeepsTheTimebaseAndReset
  intro s t ⟨ht, hr⟩ h
  refine ⟨?_, step_resetHeld h hr⟩
  rcases step_effect h with ⟨-, u, hu⟩ | ⟨rest, rfl⟩ | ⟨u, ⟨rest, rfl⟩, hp | ⟨p, hp⟩⟩
  · exact timebaseRight_reset hu
  · exact ht
  · exact hp.timebase ht
  · exact hp.timebase ht

/-- Settles O52: a request acts for the port it is served for, and a control command of another port is refused. -/
theorem hostsTouchOnlyTheirOwnClaims : Obligations.HostsTouchOnlyTheirOwnClaims := by
  unfold Obligations.HostsTouchOnlyTheirOwnClaims
  rintro c code s t p r hcode ⟨-, hnext, -⟩ hp h q hq
  obtain ⟨accepts, body, hb, he⟩ := exec_request hcode
  cases (he s).symm.trans h
  rcases serve_acted (accepts := accepts) hb s with hs | ⟨p', r', hn, ha⟩
  · rw [hs]
    exact ⟨rfl, rfl, fun sl => ⟨fun _ _ _ => rfl, fun _ ha _ => ha⟩⟩
  · cases hnext.symm.trans hn
    obtain ⟨hport, hslots⟩ := ha.asked.samePort hp hq
    exact ⟨ha.ports q hq, hport, hslots⟩

/-! ### The queue, device reset, and the state after it -/

/-- Settles O1: the step's own equation. -/
theorem stepRunsTheFrontCommand : Obligations.StepRunsTheFrontCommand := by
  unfold Obligations.StepRunsTheFrontCommand
  exact fun _ _ _ => rfl

end Sys2Proof.Machine


namespace Sys2Proof.Machine

/-! ### The reset values, block by block (Tables 1-5, 4-5, 5-8, 6-2, 10-8) -/

theorem Ct.reset_dir (m : Module) : Ct.reset.dir[m] = DirRecord.reset := by simp [Ct.reset]

theorem Dr.reset_module (m : Module) :
    Dr.reset.dir[m] = DirRecord.reset ∧ Dr.reset.claimed[m] = 0 ∧ Dr.reset.eff[m] = 0 ∧ Dr.reset.posted[m] = .off ∧
      Dr.reset.views[m] = { state := .off, armed := false, woken := false } ∧ Dr.reset.wakeNeed[m] = false ∧
      Dr.reset.idle[m] = none ∧ Dr.reset.wakeReq[m] = false ∧ Dr.reset.watched[m] = false := by
  simp [Dr.reset]

theorem Dr.reset_domain (x : SwDom) (d : Domain) :
    Dr.reset.need[d] = false ∧ Dr.reset.postedNeed[x] = false ∧ Dr.reset.keepOn[x] = false := by simp [Dr.reset]

theorem Engines.reset_dir (m : Module) : Engines.reset.dir[m] = DirRecord.reset := by simp [Engines.reset]

theorem Engines.reset_mods (m : Module) : Engines.reset.mods[m] = ModRec.reset := by simp [Engines.reset]

theorem Engines.reset_recs (e : Domain) : Engines.reset.recs[e] = { queue := [], work := .idle, timer := none } := by
  simp [Engines.reset]

theorem Engines.reset_doms (x : SwDom) : Engines.reset.doms[x] = DomRec.reset := by simp [Engines.reset]

theorem State.reset_modAt (m : Module) : State.reset.modAt m = ModRec.reset := Engines.reset_mods m

theorem State.reset_ports (p : Port) : State.reset.ports[p] = PortRec.reset := by simp [State.reset]

/-- Settles O3, block by block. -/
theorem resetLoadsEveryBlock : Obligations.ResetLoadsEveryBlock := by
  unfold Obligations.ResetLoadsEveryBlock
  refine ⟨fun s => ⟨_, rfl, rfl, fun sl => ?_, fun m => ?_, Ct.reset_ports, fun m => ?_, fun d => ?_, fun x => ?_,
    Engines.reset_mods, rfl, rfl, rfl, rfl, rfl, fun p => reset_port rfl p, rfl, rfl⟩, fun s => rfl⟩
  · change Ct.reset.slots[sl] = _
    simp [Ct.reset]
  · change Ct.reset.lists[m] = [] ∧ Ct.reset.claimed[m] = 0 ∧ Ct.reset.views[m] = _ ∧ Ct.reset.restartMark[m] = none
    simp [Ct.reset]
  · obtain ⟨h1, h2, h3, h4, h5, h6⟩ := Dr.reset_module m
    exact ⟨h1, (Ct.reset_dir m).trans h1.symm, (Engines.reset_dir m).trans h1.symm, h2, h3, h4, h5, h6⟩
  · exact ⟨(Dr.reset_domain 0 d).1, Engines.reset_recs d⟩
  · exact ⟨(Dr.reset_domain x 0).2.1, (Dr.reset_domain x 0).2.2, Engines.reset_doms x⟩

/-! ### The reset state meets every condition -/

theorem State.reset_alertSetsRight : AlertSetsRight State.reset := fun p => by
  rw [State.reset_ports]
  exact ⟨.nil, fun _ h => by cases h⟩

theorem State.reset_waitingRight : WaitingRight State.reset := fun p => by
  rw [State.reset_ports]
  exact ⟨by decide, fun _ h => by cases h⟩

theorem supplierBelow_reset (m : Module) : supplierBelow m DirRecord.reset := fun _ h => by cases h

theorem State.reset_supplierOrder : SupplierOrder State.reset := by
  refine ⟨fun m => ⟨?_, ?_, ?_⟩, fun _ h => (by cases h), fun e n hn => ?_⟩
  · exact (Ct.reset_dir m).symm ▸ supplierBelow_reset m
  · exact (Dr.reset_module m).1.symm ▸ supplierBelow_reset m
  · exact (Engines.reset_dir m).symm ▸ supplierBelow_reset m
  · simp [State.reset, Links.reset] at hn

/-- With no module present nothing is demanded, watched or needed. -/
theorem State.reset_demandRight : DemandRight State.reset := by
  have hpresent (m : Module) : Dr.reset.dir[m].present = false := by rw [(Dr.reset_module m).1]; rfl
  refine ⟨fun m => ?_, fun d => ?_, fun x => ?_⟩
  · obtain ⟨hdir, -, heff, -, -, hneed, hidle, hreq, hwatch⟩ := Dr.reset_module m
    have hdemands : Dr.reset.demands m = false := by simp only [Dr.demands, hpresent m, Bool.false_and]
    have hwatches : Dr.reset.watches Dr.reset.eff m = false := by simp only [Dr.watches, hpresent m, Bool.false_and]
    refine ⟨?_, hwatch.trans hwatches.symm, ?_, fun h => ?_, fun _ => ⟨hreq, hidle⟩⟩
    · change Dr.reset.eff[m] = Dr.reset.dueLevel m
      rw [Dr.dueLevel, hdemands, heff]; rfl
    · change Dr.reset.wakeNeed[m] = Dr.reset.dueWake m
      rw [Dr.dueWake, hneed, heff]; rfl
    · cases h.symm.trans hdemands
  · have hkept : Dr.reset.keptOn d = false := by
      unfold Dr.keptOn
      split
      · rfl
      · exact (Dr.reset_domain _ 0).2.2
    change Dr.reset.need[d] = Dr.reset.needs d
    rw [(Dr.reset_domain 0 d).1, Dr.needs, hkept, Bool.false_or, eq_comm, List.any_eq_false]
    intro m _
    rw [hpresent]
    exact Bool.false_ne_true
  · exact (Dr.reset_domain x 0).2.1.trans (Dr.reset_domain x _).1.symm

theorem State.reset_enginesRight : EnginesRight State.reset := by
  have hwork (e : Domain) : State.reset.engines.recs[e].work = .idle := by
    rw [show State.reset.engines.recs[e] = _ from Engines.reset_recs e]
  have hflight (e : Domain) : State.reset.inFlight e = none := by unfold State.inFlight; rw [hwork]
  have hpresent (m : Module) : (State.reset.engineDir m).present = false := by
    rw [show State.reset.engineDir m = _ from Engines.reset_dir m]; rfl
  have hstate (x : SwDom) : State.reset.engines.doms[x].state = .off := by
    rw [show State.reset.engines.doms[x] = _ from Engines.reset_doms x]; rfl
  refine ⟨fun m => ?_, fun e => ?_, ⟨fun e t ht => ?_, fun m hm => ?_⟩, fun x => ?_, ⟨?_, fun x => ?_⟩, fun e => ?_,
    fun m hm => ?_⟩
  · rw [State.reset_modAt]
    exact ⟨by decide, fun _ => ⟨rfl, rfl, rfl⟩⟩
  · rw [show State.reset.engines.recs[e] = _ from Engines.reset_recs e]
    exact ⟨.nil, fun _ h => by cases h⟩
  · rw [hflight] at ht; cases ht
  · rw [State.reset_modAt] at hm; cases hm
  · rw [show State.reset.engines.doms[x] = _ from Engines.reset_doms x]
    decide
  · rw [hwork]; decide
  · rw [hwork, hstate]; decide
  · rw [show State.reset.engines.recs[e] = _ from Engines.reset_recs e]; decide
  · rw [hpresent] at hm; cases hm

/-- Settles O60, condition by condition. -/
theorem theResetStateIsSound : Obligations.TheResetStateIsSound := by
  unfold Obligations.TheResetStateIsSound
  obtain ⟨⟨hlists, hcursors⟩, hclaimed⟩ := Ct.reset_tracked
  obtain ⟨hcounts, hchanges, hclaims⟩ := Ct.reset_accounted
  exact ⟨hlists, hcursors, hclaimed, hcounts, hchanges, hclaims, State.reset_alertSetsRight, State.reset_waitingRight,
    State.reset_timebaseRight, fun h => (by cases h), State.reset_supplierOrder, State.reset_demandRight,
    State.reset_enginesRight⟩

end Sys2Proof.Machine


namespace Sys2Proof.Machine

/-! ### A request that is served (R26, R155 to R157) -/

section
variable {s : State} {p : Port} {r : Request} {code : Byte} {accepts : Byte → Bool}
  {body : Port → Request → State → State × Answer} {a : Answer}

theorem serve_of_serving (h : Serving s p r code) (ha : accepts code = true) {u : State}
    (hb : body p r (s.takeRequest p) = (u, a)) : s.serve accepts body = u.writeAnswer p r.sequence a := by
  obtain ⟨hrun, hnext, rfl⟩ := h
  rw [State.serve_accepted hrun hnext ha, hb]

/-- An answer written after the port controller took the change `f` (R156, R157). -/
theorem answered_writeAnswer {u : State} {f : PortRec → PortRec} (hl : u.lastServed = p)
    (hp : u.ports[p] = { f s.ports[p] with slot := none }) (hq : ∀ q : Port, q ≠ p → u.ports[q] = s.ports[q]) :
    Answered s (u.writeAnswer p r.sequence a) p r a f := by
  refine ⟨hl, ?_, fun q hne => ?_⟩
  · rw [State.writeAnswer_ports, modifyAt_get_self, State.echoFor, hp]
    rfl
  · rw [State.writeAnswer_ports, modifyAt_get, if_neg hne, hq q hne]

/-- An answer written with the port controllers as the arbiter left them. -/
theorem answered_of_taken {u : State} (hl : u.lastServed = p) (hu : u.ports = (s.takeRequest p).ports) :
    Answered s (u.writeAnswer p r.sequence a) p r a id := by
  refine answered_writeAnswer hl ?_ fun q hne => ?_
  · rw [hu, State.takeRequest_ports, modifyAt_get_self]; rfl
  · rw [hu, State.takeRequest_ports, modifyAt_get, if_neg hne]

/-- A request that changes nothing is answered, and that is all (R26). -/
theorem served_unchanged (h : Serving s p r code) (ha : accepts code = true)
    (hb : body p r (s.takeRequest p) = (s.takeRequest p, a)) :
    (s.serve accepts body).ct = s.ct ∧ (s.serve accepts body).links = s.links ∧ SameBlocks s (s.serve accepts body) ∧
      Answered s (s.serve accepts body) p r a id := by
  rw [serve_of_serving h ha hb]
  exact ⟨rfl, rfl, ⟨rfl, rfl, rfl, rfl, rfl, rfl, rfl⟩, answered_of_taken rfl rfl⟩

theorem sameRecords_relevelled {c d : Ct} (h : SameRecords c d) : SameRecords c d.relevelled := by
  obtain ⟨h1, h2, h3, h4⟩ := h
  obtain ⟨k1, k2, k3, k4⟩ := d.relevelled_sameRecords
  exact ⟨k1.trans h1, k2.trans h2, k3.trans h3, k4.trans h4⟩

theorem relevelled_of_relevel {s u : State} (hc : u.ct.claimed = s.ct.claimed) (hl : u.links = s.links) :
    Relevelled s u.relevel := by
  refine ⟨fun m => ?_, ?_⟩
  · rw [State.relevel_ct_eq]; exact Ct.relevelled_claimedRight _ m
  · rw [State.relevel_links, State.relevel_ct_eq, hc, hl]
    simp only [Ct.relevelled_worked]

/-- A request that changes the claim table and has claimed levels worked out (R8, R26). -/
theorem served_relevel (h : Serving s p r code) (ha : accepts code = true) {f : Ct → Ct}
    (hb : body p r (s.takeRequest p) = (((s.takeRequest p).onCt f).relevel, a)) (hk : s.ct.SameBase (f s.ct)) :
    SameBlocks s (s.serve accepts body) ∧ SameRecords s.ct (s.serve accepts body).ct ∧
      Relevelled s (s.serve accepts body) ∧ (s.serve accepts body).ct = (f s.ct).relevelled ∧
      Answered s (s.serve accepts body) p r a id := by
  rw [serve_of_serving h ha hb]
  have hct : (((s.takeRequest p).onCt f).relevel.writeAnswer p r.sequence a).ct = (f s.ct).relevelled :=
    State.relevel_ct_eq _
  refine ⟨by simp [SameBlocks], ?_, relevelled_of_relevel (s := s) hk.2 rfl, hct, answered_of_taken (by simp) (by simp)⟩
  rw [hct]
  exact sameRecords_relevelled hk.1

end

/-! ### What holds with the claimed levels worked out, too -/

theorem claimNow_relevelled {c d : Ct} {sl : Slot} {new : Claim} (h : ClaimNow c d sl new) :
    ClaimNow c d.relevelled sl new := by rw [ClaimNow, Ct.relevelled_slots]; exact h

theorem leftList_relevelled {c d : Ct} {m : Module} {sl : Slot} (h : LeftList c d m sl) :
    LeftList c d.relevelled m sl := by rw [LeftList, Ct.relevelled_lists, Ct.relevelled_ports]; exact h

theorem sameCounts_relevelled {c d : Ct} (h : SameCounts c d) : SameCounts c d.relevelled := by
  rw [SameCounts, Ct.relevelled_ports]; exact h

theorem freed_relevelled {c d : Ct} {sl : Slot} {cl : Claim} (h : Freed c d sl cl) : Freed c d.relevelled sl cl := by
  rw [Freed, LeftList, SameLists, Ct.relevelled_slots, Ct.relevelled_lists, Ct.relevelled_ports]; exact h

/-! ### Handles (R4) -/

theorem handle_of_names {s : State} {p : Port} {r : Request} {sl : Slot} {c : Claim} (h : Names s r sl c) :
    (s.takeRequest p).handle r = some (sl, c) := by
  obtain ⟨hslot, hgen, hclaim⟩ := h
  exact Ct.resolve_eq_some.2 ⟨hslot, hgen.symm, hclaim⟩

theorem handle_of_namesNone {s : State} {p : Port} {r : Request} (h : NamesNone s r) :
    (s.takeRequest p).handle r = none := by
  cases hh : (s.takeRequest p).handle r with
  | none => rfl
  | some x =>
    obtain ⟨sl, c⟩ := x
    obtain ⟨hslot, hgen, hclaim⟩ := Ct.resolve_eq_some.1 hh
    exact absurd (h sl hslot hgen.symm) (by rw [show s.ct.claimAt sl = some c from hclaim]; simp)

/-! ### RELEASE and EVICT (R15, R16, R38, R174) -/

/-- Settles O17: the body frees the slot that the handle names, and `Ct.freeSlot_freed` says what that is. -/
theorem releaseFreesTheSlot : Obligations.ReleaseFreesTheSlot := by
  unfold Obligations.ReleaseFreesTheSlot
  intro s p r sl c hs hn hp
  obtain ⟨hblocks, hrecords, hlevels, hct, hans⟩ :=
    served_relevel hs (accepts := (· == codeRelease)) rfl (body := releaseBody) (f := fun ct => ct.freeSlot sl)
      (by simp only [releaseBody, handle_of_names hn, hp, ne_eq, not_true, if_false]; rfl) (Ct.freeSlot_sameBase ..)
  refine ⟨_, rfl, hblocks, hrecords, hlevels, ?_, hans⟩
  rw [hct]
  exact freed_relevelled (Ct.freeSlot_freed hn.2.2)

theorem Ct.die_claimNow {ct : Ct} {sl : Slot} {c : Claim} (h : ct.claimAt sl = some c) (st : ClaimState) (marked : Bool) :
    ClaimNow ct (ct.die sl st marked) sl { c with state := st, leaseLeft := none } := by
  refine ⟨?_, fun x hx => by rw [Ct.die_slots, if_neg hx]⟩
  have h' : ct.slots[sl].claim = some c := h
  rw [Ct.die_slots, if_pos rfl, h']
  rfl

/-- Settles O26: a dead handle is STALE; a live claim dies (`Ct.die`), a dead one's slot is freed. -/
theorem evictEndsOrFreesTheClaim : Obligations.EvictEndsOrFreesTheClaim := by
  unfold Obligations.EvictEndsOrFreesTheClaim
  refine ⟨fun s r hs hn => ?_, fun s r sl c hs hn => ?_⟩
  · exact ⟨_, rfl, served_unchanged hs (accepts := (· == codeEvict)) rfl (body := controlOnly evictBody)
      (by simp only [controlOnly_zero, evictBody, handle_of_namesNone hn]; rfl)⟩
  · have hclaim := hn.2.2
    cases hl : c.state.live with
    | true =>
      obtain ⟨hblocks, hrecords, hlevels, hct, hans⟩ :=
        served_relevel hs (accepts := (· == codeEvict)) rfl (body := controlOnly evictBody)
          (f := fun ct => ct.die sl .evicted (decide (c.holder ≠ 0)))
          (by simp only [controlOnly_zero, evictBody, handle_of_names hn, hl, if_true]; rfl) (Ct.die_sameBase ..)
      refine ⟨_, rfl, hblocks, hrecords, hlevels, fun _ => ⟨?_, ?_, ?_, fun q hq => ?_, fun h0 x => ?_, hans⟩,
        fun h => by cases h⟩ <;> rw [hct]
      · exact claimNow_relevelled (Ct.die_claimNow hclaim ..)
      · exact leftList_relevelled (Ct.die_leftList hclaim ..)
      · exact sameCounts_relevelled (Ct.die_sameCounts s.ct sl _ _)
      · rw [Ct.relevelled_ports, Ct.die_ports hclaim]
        refine if_neg fun hh => ?_
        rcases hq with hq | h0
        · exact hq hh.1
        · exact (of_decide_eq_true hh.2 : c.holder ≠ 0) h0
      · rw [Ct.relevelled_ports, Ct.die_ports hclaim]
        simp only [h0, ne_eq, not_false_eq_true, decide_true, and_self, if_true]
        exact mem_insertSlot
    | false =>
      obtain ⟨hblocks, hrecords, hlevels, hct, hans⟩ :=
        served_relevel hs (accepts := (· == codeEvict)) rfl (body := controlOnly evictBody)
          (f := fun ct => ct.freeSlot sl)
          (by simp only [controlOnly_zero, evictBody, handle_of_names hn, hl, Bool.false_eq_true, if_false]; rfl)
          (Ct.freeSlot_sameBase ..)
      refine ⟨_, rfl, hblocks, hrecords, hlevels, fun h => (by cases h), fun _ => ⟨?_, hans⟩⟩
      rw [hct]
      exact freed_relevelled (Ct.freeSlot_freed hclaim)

/-! ### CHANGE, RENEW and RELEASE that fail (R26, R27, R32, R36, R38) -/

theorem claimLevelOf_eq_none {b : Byte} : claimLevelOf b = none ↔ b.toNat = 0 ∨ 4 ≤ b.toNat := by
  unfold claimLevelOf
  split
  · simp only [reduceCtorEq, false_iff]; omega
  · simp only [true_iff]; omega

theorem changeBody_badArgument {s : State} {p : Port} {r : Request} {sl : Slot} {c : Claim}
    (hh : s.handle r = some (sl, c)) (hp : c.holder = p) (hl : c.state.live = true)
    (hbad : (r.byte 4).toNat = 0 ∨ 4 ≤ (r.byte 4).toNat ∨
      ((r.byte 4).toNat = 2 ∧ s.ct.dir[c.module].wakeUsed = false)) :
    changeBody p r s = (s, .refused .badArgument) := by
  simp only [changeBody, hh, hp, hl, ne_eq, not_true, if_false, Bool.not_true, Bool.false_eq_true]
  cases hc : claimLevelOf (r.byte 4) with
  | none => rfl
  | some l =>
    have hlevel := (claimLevelOf_eq_some.1 hc).1
    have hwake : l = 2 ∧ s.ct.dir[c.module].wakeUsed = false := by
      rcases hbad with h | h | ⟨h, hw⟩
      · exact absurd (claimLevelOf_eq_none.2 (.inl h)) (by rw [hc]; simp)
      · exact absurd (claimLevelOf_eq_none.2 (.inr h)) (by rw [hc]; simp)
      · exact ⟨Fin.ext (hlevel.symm.trans h), hw⟩
    simp only [hwake, and_self, if_true]

/-- A body of a command for the holder makes its first two checks, whatever it does then (R4, R27). -/
def ChecksHandle (body : Port → Request → State → State × Answer) : Prop :=
  ∀ (p : Port) (r : Request) (s : State),
    (s.handle r = none → body p r s = (s, .refused .stale)) ∧
      ∀ sl c, s.handle r = some (sl, c) → c.holder ≠ p → body p r s = (s, .refused .notPermitted)

/-- It refuses a dead claim with its state and break reason (R27). -/
def ChecksLive (body : Port → Request → State → State × Answer) : Prop :=
  ∀ (p : Port) (r : Request) (s : State) (sl : Slot) (c : Claim), s.handle r = some (sl, c) → c.holder = p →
    c.state.live = false → body p r s = (s, .notLive c.state)

theorem changeBody_checksHandle : ChecksHandle changeBody := fun p r s =>
  ⟨fun h => by simp only [changeBody, h], fun sl c h hp => by simp only [changeBody, h, if_pos hp]⟩

theorem renewBody_checksHandle : ChecksHandle renewBody := fun p r s =>
  ⟨fun h => by simp only [renewBody, h], fun sl c h hp => by simp only [renewBody, h, if_pos hp]⟩

theorem releaseBody_checksHandle : ChecksHandle releaseBody := fun p r s =>
  ⟨fun h => by simp only [releaseBody, h], fun sl c h hp => by simp only [releaseBody, h, if_pos hp]⟩

theorem changeBody_checksLive : ChecksLive changeBody := fun p r s sl c h hp hl => by
  simp only [changeBody, h, hp, ne_eq, not_true, if_false, hl, Bool.not_false, if_true]

theorem renewBody_checksLive : ChecksLive renewBody := fun p r s sl c h hp hl => by
  simp only [renewBody, h, hp, ne_eq, not_true, if_false, hl, Bool.not_false, if_true]

theorem renewBody_badArgument {s : State} {p : Port} {r : Request} {sl : Slot} {c : Claim}
    (hh : s.handle r = some (sl, c)) (hp : c.holder = p) (hl : c.state.live = true) (h0 : c.leaseLength = 0) :
    renewBody p r s = (s, .refused .badArgument) := by
  simp only [renewBody, hh, hp, ne_eq, not_true, if_false, hl, Bool.not_true, Bool.false_eq_true, h0, if_true]

/-- The checks that come after the holder's and that a command of the holder fails, with the answer (R27, R32, R36). -/
abbrev FailsLater (s : State) (r : Request) (i : Instr) (a : Answer) (c : Claim) : Prop :=
  i ≠ .release ∧
    if c.state.live = false then
      a = { status := .notLive, b2 := claimByte (claimStateCode c.state) (breakReasonCode c.state) 0 false }
    else a = { status := .badArgument } ∧
      (i = .renew → c.leaseLength = 0) ∧
      (i = .change → (r.byte 4).toNat = 0 ∨ 4 ≤ (r.byte 4).toNat ∨
        ((r.byte 4).toNat = 2 ∧ s.ct.dir[c.module].wakeUsed = false))

theorem fails_of_checksHandle {s : State} {p : Port} {r : Request} {i : Instr} {a : Answer}
    {body : Port → Request → State → State × Answer} (hc : ChecksHandle body)
    (hfail : NamesNone s r ∧ a = { status := .stale } ∨
      ∃ sl : Slot, ∃ c ∈ s.ct.claimAt sl, Names s r sl c ∧
        if c.holder ≠ p then a = { status := .notPermitted } else FailsLater s r i a c)
    (hlater : ∀ sl c, (s.takeRequest p).handle r = some (sl, c) → c.holder = p → FailsLater s r i a c →
      body p r (s.takeRequest p) = (s.takeRequest p, a)) : body p r (s.takeRequest p) = (s.takeRequest p, a) := by
  rcases hfail with ⟨hn, rfl⟩ | ⟨sl, c, -, hn, hcheck⟩
  · exact (hc p r _).1 (handle_of_namesNone hn)
  · by_cases hp : c.holder = p
    · rw [if_neg (not_not.2 hp)] at hcheck
      exact hlater sl c (handle_of_names hn) hp hcheck
    · rw [if_pos hp] at hcheck
      rw [hcheck]
      exact (hc p r _).2 sl c (handle_of_names hn) hp

theorem fails_of_checksLive {s : State} {p : Port} {r : Request} {i : Instr} {a : Answer} {sl : Slot} {c : Claim}
    {body : Port → Request → State → State × Answer} (hc : ChecksLive body)
    (hh : (s.takeRequest p).handle r = some (sl, c)) (hp : c.holder = p) (hfail : FailsLater s r i a c)
    (hbad : c.state.live = true → (i = .renew → c.leaseLength = 0) →
      (i = .change → (r.byte 4).toNat = 0 ∨ 4 ≤ (r.byte 4).toNat ∨
        ((r.byte 4).toNat = 2 ∧ s.ct.dir[c.module].wakeUsed = false)) →
      body p r (s.takeRequest p) = (s.takeRequest p, .refused .badArgument)) :
    body p r (s.takeRequest p) = (s.takeRequest p, a) := by
  obtain ⟨-, hcheck⟩ := hfail
  split at hcheck
  · rename_i hl
    rw [hcheck]; exact hc p r _ sl c hh hp hl
  · rename_i hl
    obtain ⟨ha, hlen, hlevel⟩ := hcheck
    rw [ha]; exact hbad (by simpa using hl) hlen hlevel

/-- Settles O18, check by check: the handle, the holder, the claim's liveness, then the command's own operand. -/
theorem holderCommandsReportTheFirstFailingCheck : Obligations.HolderCommandsReportTheFirstFailingCheck := by
  unfold Obligations.HolderCommandsReportTheFirstFailingCheck
  intro s p r i code a hi hs hfail
  rcases hi with ⟨rfl, rfl⟩ | ⟨rfl, rfl⟩ | ⟨rfl, rfl⟩
  · exact ⟨_, rfl, served_unchanged hs (accepts := (· == codeChange)) rfl
      (fails_of_checksHandle changeBody_checksHandle hfail fun sl c hh hp hlater =>
        fails_of_checksLive changeBody_checksLive hh hp hlater fun hl _ hbad =>
          changeBody_badArgument hh hp hl (hbad rfl))⟩
  · exact ⟨_, rfl, served_unchanged hs (accepts := (· == codeRenew)) rfl
      (fails_of_checksHandle renewBody_checksHandle hfail fun sl c hh hp hlater =>
        fails_of_checksLive renewBody_checksLive hh hp hlater fun hl hlen _ =>
          renewBody_badArgument hh hp hl (hlen rfl))⟩
  · exact ⟨_, rfl, served_unchanged hs (accepts := (· == codeRelease)) rfl
      (fails_of_checksHandle releaseBody_checksHandle hfail fun _ _ _ _ hlater => absurd rfl hlater.1)⟩

end Sys2Proof.Machine


namespace Sys2Proof.Machine

/-! ### PLACE (R5, R29, R30) -/

/-- The lowest-numbered FREE slot is the one found (R5). -/
theorem Ct.freeSlot?_eq_some {ct : Ct} {sl : Slot} (hs : ct.claimAt sl = none)
    (hlow : ∀ x : Slot, x < sl → ct.claimAt x ≠ none) : ct.freeSlot? = some sl := by
  obtain ⟨before, rest, hl⟩ := List.append_of_mem (mem_allSlots sl)
  have hsorted : (before ++ sl :: rest).Pairwise (· < ·) := hl ▸ List.pairwise_lt_finRange 128
  unfold Ct.freeSlot?
  refine List.find?_eq_some_iff_append.2 ⟨by rw [hs]; rfl, before, rest, hl, fun x hx => ?_⟩
  have hlt : x < sl := (List.pairwise_append.1 hsorted).2.2 x hx sl (by simp)
  cases hc : ct.claimAt x with
  | none => exact absurd hc (hlow x hlt)
  | some c => rfl

/-- Settles O13: the checks pass, the slot found is the lowest FREE one, and `Ct.fill` fills it. -/
theorem placeFillsTheLowestFreeSlot : Obligations.PlaceFillsTheLowestFreeSlot := by
  unfold Obligations.PlaceFillsTheLowestFreeSlot
  intro s p r m l sl hs hm hl h1 hpresent hfault hdomain hwake hquota hfree hlow granted c
  have hbody : placeBody p r (s.takeRequest p) =
      (((s.takeRequest p).onCt fun ct => ct.fill sl p m l (r.half 4).toNat (r.half 6)).relevel,
        { status := .ok, b2 := byteOf sl.val, b3 := s.ct.slots[sl].gen
          b4 := if granted then 0x02 else 0x01, b5 := s.ct.views[m].gen }) := by
    have hrefuse : (s.takeRequest p).refusesFaulted m = false := by
      change (s.ct.views[m].fault || decide (s.domState s.ct.dir[m].domain = .fault)) = false
      rw [hfault, decide_eq_false hdomain]; rfl
    have hwake' : ¬(l = 2 ∧ s.ct.dir[m].wakeUsed = false) := fun ⟨h2, hw⟩ => by
      rw [hwake h2] at hw; cases hw
    simp only [placeBody, moduleOf_eq_some.2 hm, claimLevelOf_eq_some.2 ⟨hl, h1⟩, State.takeRequest_ct, hpresent, hrefuse,
      hwake', not_le.2 hquota, Ct.freeSlot?_eq_some hfree hlow, Bool.not_true, Bool.false_eq_true, if_false, hfault,
      Bool.not_false, Bool.true_and]
    by_cases hg : l ≤ s.ct.views[m].level
    · simp only [granted, hg, decide_true, if_true]; rfl
    · simp only [granted, hg, decide_false, Bool.false_eq_true, if_false]; rfl
  obtain ⟨hblocks, hrecords, hlevels, hct, hans⟩ :=
    served_relevel hs (accepts := (· == codePlace)) rfl (f := fun ct => ct.fill sl p m l (r.half 4).toNat (r.half 6))
      hbody Ct.fill_sameBase
  have hplaced : s.ct.placed p m l (r.half 4).toNat (r.half 6) = c := by
    simp only [Ct.placed, hfault, Bool.not_false, Bool.true_and]; rfl
  refine ⟨_, rfl, hblocks, hrecords, hlevels, ?_, ?_, fun k hk => ?_, ?_, fun q hq => ?_, hans⟩ <;> rw [hct]
  · refine claimNow_relevelled ⟨?_, fun x hx => by rw [Ct.fill_slots, if_neg hx]⟩
    rw [Ct.fill_slots, if_pos rfl, hplaced]
  · rw [Ct.relevelled_lists, Ct.fill_lists, modifyAt_get_self]
  · rw [Ct.relevelled_lists, Ct.fill_lists, modifyAt_get_ne _ _ hk]
  · rw [Ct.relevelled_ports, Ct.fill_ports, modifyAt_get_self]
  · rw [Ct.relevelled_ports, Ct.fill_ports, modifyAt_get_ne _ _ hq]

/-! ### A browser loses no later claim (R24) -/

/-- Settles O24: a cursor splits its list into claims passed and claims to come; a removal filters both parts, and the
cursor stands after the last claim passed that remains. -/
theorem removalsLoseNoLaterClaim : Obligations.RemovalsLoseNoLaterClaim := by
  unfold Obligations.RemovalsLoseNoLaterClaim
  rintro ct m sl q ⟨k, after⟩ hn hsl hq rfl hafter
  obtain ⟨passed, rest, hl, rfl⟩ := exists_split_of_position hafter
  have hleft : (ct.leaveList k sl).lists[k] = passed.filter (· ≠ sl) ++ rest.filter (· ≠ sl) := by
    rw [Ct.leaveList_lists, modifyAt_get_self, hl, List.filter_append]
  have hn' : (ct.leaveList k sl).lists[k].Nodup := by
    rw [Ct.leaveList_lists, modifyAt_get_self]; exact hn.filter _
  have hfollow := Ct.following_split hl hn
  have hfollow' := Ct.following_split hleft hn'
  refine ⟨{ module := k, after := (passed.filter (· ≠ sl)).getLast? }, ?_, rfl, fun x hx => ?_, fun hne => ?_, fun he => ?_⟩
  · rw [Ct.leaveList_ports, Fin.getElem_fin, Vector.getElem_ofFn]
    change retreat k sl _ ct.ports[q].cursor = _
    rw [hq, hl]
    exact retreat_split (hl ▸ hn)
  · rw [hleft]; exact List.mem_append_left _ (List.mem_of_getLast? hx)
  · rw [hfollow] at hne ⊢
    rw [hfollow']
    cases rest with
    | nil => rfl
    | cons b rest =>
      have hb : b ≠ sl := fun e => hne (by rw [e]; rfl)
      simp [hb]
  · rw [hfollow] at he
    rw [hfollow']
    cases rest with
    | nil => cases he
    | cons b rest =>
      cases he
      have hsplit : ct.lists[k] = (passed ++ [sl]) ++ rest := by rw [hl]; simp
      have hrest : rest.filter (· ≠ sl) = rest := by
        rw [hl] at hn
        have hb := (List.nodup_cons.1 (List.nodup_append.1 hn).2.1).1
        exact List.filter_eq_self.2 fun x hx => decide_eq_true fun e => hb (e ▸ hx)
      have hafter' := Ct.following_split hsplit hn
      rw [List.getLast?_concat] at hafter'
      rw [hafter', List.filter_cons, if_neg (by simp), hrest]

/-! ### DETACH and RETIRE ALL (R17, R166, R176) -/

theorem Ct.countClaims_eq_zero {ct : Ct} {which : Claim → Bool} (h : ∀ x : Slot, (ct.claimAt x).any which = false) :
    ct.countClaims which = 0 := by
  unfold Ct.countClaims
  rw [List.length_eq_zero_iff, List.filter_eq_nil_iff]
  intro x _
  rw [h x]
  exact Bool.false_ne_true

theorem Ct.freeAll_countsRight {ct : Ct} (h : ct.CountsRight) (which : Claim → Bool) : (ct.freeAll which).CountsRight :=
  Ct.freeAll_keeps Ct.CountsRight (fun _ sl hb _ => Ct.freeSlot_countsRight hb sl) h

theorem Ct.freeAll_changeSetsRight {ct : Ct} (h : ct.ChangeSetsRight) (which : Claim → Bool) :
    (ct.freeAll which).ChangeSetsRight :=
  Ct.freeAll_keeps Ct.ChangeSetsRight (fun _ sl hb _ => Ct.freeSlot_changeSetsRight hb sl) h

/-- A port all of whose slots are freed holds none: its count is 0 and its change set empty (R17, R18, R20). -/
theorem Ct.freeAll_port_emptied {ct : Ct} (hcount : ct.CountsRight) (hset : ct.ChangeSetsRight) {which : Claim → Bool}
    {q : Port} (h : ∀ c : Claim, c.holder = q → which c = true) :
    (ct.freeAll which).ports[q] =
      { count := 0, quota := ct.ports[q].quota, changes := [], cursor := (ct.freeAll which).ports[q].cursor } := by
  have hnone (x : Slot) : ((ct.freeAll which).claimAt x).any (fun c => decide (c.holder = q)) = false := by
    rw [Ct.freeAll_claimAt]
    split
    · rfl
    · rename_i hx
      cases hc : ct.claimAt x with
      | none => rfl
      | some c =>
        rw [hc] at hx
        exact decide_eq_false fun hq => hx (h c hq)
  have h0 : (ct.freeAll which).ports[q].count = 0 :=
    (Ct.freeAll_countsRight hcount which q).trans (Ct.countClaims_eq_zero hnone)
  have hnil : (ct.freeAll which).ports[q].changes = [] := by
    refine List.eq_nil_iff_forall_not_mem.2 fun x hx => ?_
    have := (Ct.freeAll_changeSetsRight hset which q).2 x hx
    rw [hnone] at this; cases this
  have hquota := Ct.freeAll_quota ct which q
  generalize (ct.freeAll which).ports[q] = r at h0 hnil hquota ⊢
  cases r
  subst h0 hnil hquota
  rfl

end Sys2Proof.Machine


namespace Sys2Proof.Machine

/-! ### DETACH (R17, R166) -/

/-- What DETACH makes of the claim table before claimed levels are worked out: the port's slots freed, its cursor none. -/
def Ct.detached (p : Port) (ct : Ct) : Ct :=
  (ct.freeAll fun c => decide (c.holder = p)).onPort p fun q => { q with cursor := none }

theorem Ct.detached_slots (p : Port) (ct : Ct) :
    (ct.detached p).slots = (ct.freeAll fun c => decide (c.holder = p)).slots := by
  rw [Ct.detached, Ct.onPort_slots]

theorem Ct.detached_lists (p : Port) (ct : Ct) :
    (ct.detached p).lists = (ct.freeAll fun c => decide (c.holder = p)).lists := by
  rw [Ct.detached, Ct.onPort_lists]

theorem Ct.detached_port_self {ct : Ct} (hcount : ct.CountsRight) (hset : ct.ChangeSetsRight) (p : Port) :
    (ct.detached p).ports[p] = { count := 0, quota := ct.ports[p].quota, changes := [], cursor := none } := by
  unfold Ct.detached
  rw [Ct.onPort_ports, modifyAt_get_self, Ct.freeAll_port_emptied hcount hset fun _ hc => decide_eq_true hc]

/-- Another port's cursor alone may move (R24, R166). -/
theorem Ct.detached_port_ne {ct : Ct} (h : ct.Tracked) {p q : Port} (hq : q ≠ p) :
    (ct.detached p).ports[q] = { ct.ports[q] with
      cursor := ct.ports[q].cursor.map (cursorPast ct fun x => (ct.claimAt x).any fun c => decide (c.holder = p)) } := by
  unfold Ct.detached
  rw [Ct.onPort_ports, modifyAt_get_ne _ _ hq, Ct.freeAll_port fun c hc => of_decide_eq_true hc ▸ Ne.symm hq,
    (Ct.freeAll_leftLists h _).2 q]

theorem Ct.detached_sameBase (p : Port) (ct : Ct) : ct.SameBase (ct.detached p) :=
  (Ct.freeAll_sameBase ct _).onPort p _

/-- Settles O12: the slots are freed together (`Ct.freeAll`), then the requester's cursor and alert set are emptied. -/
theorem detachFreesTheRequestersClaims : Obligations.DetachFreesTheRequestersClaims := by
  unfold Obligations.DetachFreesTheRequestersClaims
  intro s p r hs hcount hlists hset hcursors
  have hbody : detachBody p r (s.takeRequest p) =
      (((s.takeRequest p).onCt (Ct.detached p)).relevel.onPort p fun q => { q with alerts := [] },
        { status := .ok, b2 := byteOf s.ct.ports[p].count, b3 := byteOf s.ports[p].alerts.length }) := by
    rw [show s.ct.ports[p].count = _ from hcount p]
    unfold detachBody Ct.detached
    simp only [State.takeRequest_ct, State.takeRequest_ports, modifyAt_get_self]
  have hserve := serve_of_serving hs (accepts := (· == codeDetach)) rfl hbody
  have hct : (s.serve (· == codeDetach) detachBody).ct = (s.ct.detached p).relevelled := by
    rw [hserve, State.writeAnswer_ct, State.onPort_ct, State.relevel_ct_eq, State.onCt_ct, State.takeRequest_ct]
  refine ⟨_, rfl, ?_, ?_, ?_, fun sl => ?_, fun m => ?_, ?_, fun q hq => ?_, ?_⟩
  · rw [hserve]; simp [SameBlocks]
  · rw [hct]; exact sameRecords_relevelled (Ct.detached_sameBase p s.ct).1
  · rw [hserve]
    exact relevelled_of_relevel (s := s) (u := (s.takeRequest p).onCt (Ct.detached p)) (Ct.detached_sameBase p s.ct).2
      (by rw [State.onCt_links, State.takeRequest_links])
  · rw [hct, Ct.relevelled_slots, Ct.detached_slots, Ct.freeAll_slots]
  · rw [hct, Ct.relevelled_lists, Ct.detached_lists]
    exact (Ct.freeAll_leftLists ⟨hlists, hcursors⟩ _).1 m
  · rw [hct, Ct.relevelled_ports]; exact Ct.detached_port_self hcount hset p
  · rw [hct, Ct.relevelled_ports]; exact Ct.detached_port_ne ⟨hlists, hcursors⟩ hq
  · rw [hserve]
    refine answered_writeAnswer (by simp) ?_ fun q hq => ?_
    · simp
    · simp [Fin.val_ne_of_ne hq]

/-! ### RETIRE ALL (R17, R176) -/

theorem Ct.freeSlot_listsRight {ct : Ct} (h : ct.ListsRight) (sl : Slot) : (ct.freeSlot sl).ListsRight := by
  intro m
  have hlist : (ct.freeSlot sl).lists[m] = ct.lists[m].filter (· ≠ sl) := by
    have hstays (hm : sl ∉ ct.lists[m]) : ct.lists[m] = ct.lists[m].filter (· ≠ sl) := by
      refine (List.filter_eq_self.2 fun x hx => ?_).symm
      exact decide_eq_true fun e => hm (e ▸ hx)
    cases hs : ct.claimAt sl with
    | none => rw [Ct.freeSlot_free hs]; exact hstays (h.not_mem_of_free hs m)
    | some c =>
      rw [Ct.freeSlot_lists hs]
      split
      · rw [modifyAt_get]
        split
        · subst_vars; rfl
        · exact hstays (h.not_mem_of_ne hs m ‹_›)
      · exact hstays (h.not_mem_of_dead hs (Bool.not_eq_true _ ▸ ‹_›) m)
  rw [hlist]
  refine ⟨(h m).1.filter _, fun x => ?_⟩
  unfold Ct.liveOn
  rw [Ct.freeSlot_claimAt, List.mem_filter, (h m).2 x]
  by_cases hx : x = sl <;> simp [hx, Ct.liveOn]

/-- What RETIRE ALL makes of the claim table before claimed levels are worked out: every slot freed, every cursor none. -/
def Ct.emptied (ct : Ct) : Ct := (ct.freeAll fun _ => true).dropCursors

theorem any_true_eq_isSome (o : Option Claim) : o.any (fun _ => true) = o.isSome := by cases o <;> rfl

theorem Ct.emptied_slots (ct : Ct) (x : Slot) :
    ct.emptied.slots[x] =
      if (ct.claimAt x).isSome then { gen := ct.slots[x].gen + 1, claim := none } else ct.slots[x] := by
  rw [Ct.emptied, Ct.dropCursors_slots, Ct.freeAll_slots, any_true_eq_isSome]

theorem Ct.emptied_lists {ct : Ct} (h : ct.ListsRight) (m : Module) : ct.emptied.lists[m] = [] := by
  have hright : (ct.freeAll fun _ => true).ListsRight :=
    Ct.freeAll_keeps Ct.ListsRight (fun _ sl hb _ => Ct.freeSlot_listsRight hb sl) h
  rw [Ct.emptied, Ct.dropCursors_lists]
  refine List.eq_nil_iff_forall_not_mem.2 fun x hx => ?_
  obtain ⟨c, hc, -⟩ := hright.live_of_mem hx
  rw [Ct.freeAll_claimAt, any_true_eq_isSome] at hc
  cases hs : ct.claimAt x <;> simp [hs] at hc

theorem Ct.worked_of_nil {ct : Ct} {m : Module} (h : ct.lists[m] = []) : ct.worked m = 0 := by
  unfold Ct.worked; rw [h]; rfl

theorem Ct.emptied_ports {ct : Ct} (hcount : ct.CountsRight) (hset : ct.ChangeSetsRight) (q : Port) :
    ct.emptied.ports[q] = { count := 0, quota := ct.ports[q].quota, changes := [], cursor := none } := by
  rw [Ct.emptied, Ct.dropCursors_ports, Ct.freeAll_port_emptied hcount hset fun _ _ => rfl]

theorem Ct.emptied_sameBase (ct : Ct) : ct.SameBase ct.emptied := (Ct.freeAll_sameBase ct _).dropCursors

/-- Settles O27: freeing every slot leaves every list empty, so every claimed level is worked out as 0. -/
theorem retireAllFreesEverySlot : Obligations.RetireAllFreesEverySlot := by
  unfold Obligations.RetireAllFreesEverySlot
  intro s r hs hcount hlists hset
  have hfreed : (s.ct.countClaims fun _ => true) = (allSlots.filter fun x => (s.ct.claimAt x).isSome).length := by
    unfold Ct.countClaims
    simp only [any_true_eq_isSome]
  obtain ⟨hblocks, hrecords, hlevels, hct, hans⟩ :=
    served_relevel hs (accepts := (· == codeRetireAll)) rfl (body := controlOnly retireAllBody) (f := Ct.emptied)
      (by simp only [controlOnly_zero, retireAllBody, State.takeRequest_ct, hfreed]; rfl) (Ct.emptied_sameBase s.ct)
  obtain ⟨hclaimed, hlinks⟩ := hlevels
  have hnil (m : Module) : s.ct.emptied.relevelled.lists[m] = [] := by
    rw [Ct.relevelled_lists]; exact Ct.emptied_lists hlists m
  rw [hct] at hclaimed hlinks
  refine ⟨_, rfl, hblocks, hrecords, fun sl => ?_, fun m => ⟨?_, ?_⟩, fun q => ?_, ?_, hans⟩
  · rw [hct, Ct.relevelled_slots]; exact Ct.emptied_slots s.ct sl
  · rw [hct]; exact hnil m
  · rw [hct, hclaimed, Ct.worked_of_nil (hnil m)]
  · rw [hct, Ct.relevelled_ports]; exact Ct.emptied_ports hcount hset q
  · rw [hlinks]
    simp only [Ct.worked_of_nil (hnil _), ne_eq, eq_comm (a := (0 : Level))]

end Sys2Proof.Machine


namespace Sys2Proof.Machine

/-! ### A module's list, restated from head to tail (R11, R12) -/

section
variable {turns : Claim → Bool} {f : Claim → Claim} {l : List Slot} (hl : l.Nodup) (ct : Ct)
include hl

theorem foldl_restate_slots (x : Slot) :
    (l.foldl (Ct.restate turns f) ct).slots[x] =
      if x ∈ l then { ct.slots[x] with claim := ct.slots[x].claim.map fun c => if turns c then f c else c }
      else ct.slots[x] :=
  foldl_slots (g := fun r => { r with claim := r.claim.map fun c => if turns c then f c else c })
    (Ct.restate_slots turns f) hl ct x

theorem foldl_restate_claimAt (x : Slot) :
    (l.foldl (Ct.restate turns f) ct).claimAt x =
      (ct.claimAt x).map fun c => if x ∈ l ∧ turns c = true then f c else c := by
  unfold Ct.claimAt
  rw [foldl_restate_slots hl]
  by_cases hx : x ∈ l <;> simp [hx]

theorem mem_foldl_restate_changes (q : Port) (x : Slot) :
    x ∈ (l.foldl (Ct.restate turns f) ct).ports[q].changes ↔
      x ∈ ct.ports[q].changes ∨ x ∈ l ∧ ∃ c ∈ ct.claimAt x, c.holder = q ∧ turns c = true :=
  foldl_changes (fun b a y hy => by rw [Ct.restate_slots, if_neg hy]) (Ct.mem_restate_changes turns f) hl ct q x

end

theorem Ct.takeLevel_eq (ct : Ct) (m : Module) (x : Level) (g : Byte) :
    ct.takeLevel m x g = ct.lists[m].foldl (Ct.restate (turnsAt x) (Claim.turned g))
      { ct with views := ct.views.set m { level := x, gen := g, fault := false } } := by
  have : Ct.settleClaim x g = Ct.restate (turnsAt x) (Claim.turned g) :=
    funext fun ct => funext fun sl => Ct.settleClaim_eq x g ct sl
  rw [Ct.takeLevel, this]

/-- A claim turns by the level notice just as R11 says. -/
theorem ite_turnsAt (x : Level) (g : Byte) (c : Claim) :
    (if turnsAt x c = true then c.turned g else c) =
      if c.state = .pending ∧ c.level ≤ x then { c with state := .granted, genSeen := some g }
      else if c.state = .granted ∧ x < c.level then { c with state := .pending }
      else c := by
  unfold turnsAt Claim.turned
  by_cases hp : c.state = .pending ∧ c.level ≤ x
  · simp [hp]
  · by_cases hg : c.state = .granted ∧ x < c.level
    · simp [hg]
    · rw [if_neg hp, if_neg hg, if_neg (by rw [decide_eq_true_eq]; exact not_or.2 ⟨hp, hg⟩)]

/-! ### Notices to the claim table (R9 to R14) -/

section
variable {s : State} {e : Domain} {rest : List CtNotice}

/-- The notice taken is the oldest of its engine's stream (R9). -/
theorem State.ctNotice_of_head {n : CtNotice} (h : s.links.toCt[e] = n :: rest) : s.ctNotice e = some n := by
  rw [State.ctNotice, h]; rfl

theorem State.dropCtNotice_links_of_head {n : CtNotice} (h : s.links.toCt[e] = n :: rest) :
    (s.dropCtNotice e).links = { s.links with toCt := s.links.toCt.set e rest } := by
  rw [State.dropCtNotice_links, modifyAt_tail _ _ h]

theorem exec_levelNotice {m : Module} {x : Level} {g : Byte} (hr : Running s)
    (h : s.links.toCt[e] = .level m x g :: rest) :
    exec (.levelNotice e) s = .next ((s.dropCtNotice e).onCt fun ct => ct.takeLevel m x g) := by
  change Host.Outcome.next (s.awake _) = _
  rw [State.awake_running _ hr, State.ctNotice_of_head h]

theorem exec_restartStartNotice {m : Module} (hr : Running s) (h : s.links.toCt[e] = .restartStart m :: rest) :
    exec (.restartStartNotice e) s = .next ((s.dropCtNotice e).onCt fun ct => ct.takeRestartStart m) := by
  change Host.Outcome.next (s.awake _) = _
  rw [State.awake_running _ hr, State.ctNotice_of_head h]

theorem exec_restartEndNotice {m : Module} (hr : Running s) (h : s.links.toCt[e] = .restartEnd m :: rest) :
    exec (.restartEndNotice e) s =
      .next ((s.dropCtNotice e).onCt fun ct => { ct with restartMark := ct.restartMark.set m none }) := by
  change Host.Outcome.next (s.awake _) = _
  rw [State.awake_running _ hr, State.ctNotice_of_head h]

theorem exec_faultNoticeAtCt {m : Module} {cause : ModCause} (hr : Running s)
    (h : s.links.toCt[e] = .fault m cause :: rest) :
    exec (.faultNoticeAtCt e) s = .next ((s.dropCtNotice e).onCt fun ct => ct.takeFault m cause).relevel := by
  change Host.Outcome.next (s.awake _) = _
  rw [State.awake_running _ hr, State.ctNotice_of_head h]

end

/-- Settles O34: the module's list is restated claim by claim (`Ct.takeLevel_eq`), each claim once. -/
theorem levelNoticeSettlesTheList : Obligations.LevelNoticeSettlesTheList := by
  unfold Obligations.LevelNoticeSettlesTheList
  intro s e m x g rest hr h hlists turns
  have hn := (hlists m).1
  obtain ⟨⟨hviews, hmark, hdir, hdivider⟩, hclaimed⟩ := Ct.SameBase.foldl
    (Ct.restate_sameBase (turnsAt x) (Claim.turned g)) s.ct.lists[m]
    { s.ct with views := s.ct.views.set m { level := x, gen := g, fault := false } }
  rw [← Ct.takeLevel_eq] at hviews hmark hdir hdivider hclaimed
  refine ⟨_, exec_levelNotice hr h, by simp [SameBlocks], ⟨rfl, rfl⟩, State.dropCtNotice_links_of_head h, ?_,
    fun k hk => ?_, fun sl => ⟨(s.ct.takeLevel_inPlace m x g).gens sl, ?_⟩, fun q sl => ?_,
    (s.ct.takeLevel_inPlace m x g).counts, (s.ct.takeLevel_restated m x g).lists, hclaimed, hmark, hdir, hdivider⟩
  · rw [State.onCt_ct, State.dropCtNotice_ct, hviews]; simp
  · rw [State.onCt_ct, State.dropCtNotice_ct, hviews]; simp [Fin.val_ne_of_ne hk.symm]
  · rw [State.onCt_ct, State.dropCtNotice_ct, Ct.takeLevel_eq, foldl_restate_claimAt hn]
    refine Option.map_congr fun c _ => ?_
    by_cases hsl : sl ∈ s.ct.lists[m]
    · simp only [hsl, true_and]; exact ite_turnsAt x g c
    · simp only [hsl, false_and, if_false]
  · rw [State.onCt_ct, State.dropCtNotice_ct, Ct.takeLevel_eq, mem_foldl_restate_changes hn]
    simp only [turnsAt, decide_eq_true_eq]; rfl

/-- Settles O35. -/
theorem restartNoticesUngrantAndClear : Obligations.RestartNoticesUngrantAndClear := by
  unfold Obligations.RestartNoticesUngrantAndClear
  refine ⟨fun s e m rest hr h hlists => ?_, fun s e m rest hr h => ?_⟩
  · have hn := (hlists m).1
    have heq : s.ct.takeRestartStart m = s.ct.lists[m].foldl
        (Ct.restate (fun c => decide (c.state = .granted)) fun c => { c with state := .pending }) s.ct :=
      congrArg (List.foldl · s.ct s.ct.lists[m]) (funext fun ct => funext fun sl => ct.unsettleClaim_eq sl)
    have hbase := s.ct.takeRestartStart_sameBase m
    refine ⟨_, exec_restartStartNotice hr h, by simp [SameBlocks], ⟨rfl, rfl⟩, hbase.1,
      State.dropCtNotice_links_of_head h, fun sl => ⟨(s.ct.takeRestartStart_inPlace m).gens sl, ?_⟩, fun q sl => ?_,
      (s.ct.takeRestartStart_inPlace m).counts, (s.ct.takeRestartStart_restated m).lists, hbase.2⟩
    · rw [State.onCt_ct, State.dropCtNotice_ct, heq, foldl_restate_claimAt hn]
      simp only [decide_eq_true_eq]
    · rw [State.onCt_ct, State.dropCtNotice_ct, heq, mem_foldl_restate_changes hn]
      simp only [decide_eq_true_eq]
  · rw [exec_restartEndNotice hr h, ← modifyAt_tail _ _ h]
    rfl

end Sys2Proof.Machine


namespace Sys2Proof.Machine

/-! ### A fault notice at the claim table (R10, R14, R15) -/

/-- The faulted module's view: level 0 and the fault mark, generation kept (R10). -/
def Ct.viewFaulted (ct : Ct) (m : Module) : Ct :=
  { ct with views := modifyAt ct.views m fun v => { v with level := 0, fault := true } }

section
variable {ct : Ct} {m : Module} {cause : ModCause}

theorem Ct.takeFault_eq : ct.takeFault m cause =
    ct.lists[m].foldl (fun ct sl => ct.die sl (.broken (breakReasonOf cause)) true) (ct.viewFaulted m) := rfl

theorem Ct.viewFaulted_views :
    (ct.viewFaulted m).views = modifyAt ct.views m fun v => { v with level := 0, fault := true } := rfl

theorem Ct.takeFault_claimAt (hn : ct.lists[m].Nodup) (x : Slot) :
    (ct.takeFault m cause).claimAt x = (ct.claimAt x).map fun c =>
      if x ∈ ct.lists[m] then { c with state := .broken (breakReasonOf cause), leaseLeft := none } else c := by
  have hslots := foldl_slots
    (g := fun r => { r with claim := r.claim.map fun c =>
      { c with state := .broken (breakReasonOf cause), leaseLeft := none } })
    (fun b a y => Ct.die_slots b a (.broken (breakReasonOf cause)) true y) hn
    (ct.viewFaulted m) x
  rw [Ct.takeFault_eq]
  refine (congrArg SlotRec.claim hslots).trans ?_
  by_cases hx : x ∈ ct.lists[m]
  · simp only [hx, if_true]; rfl
  · simp only [hx, if_false, Option.map_id']; rfl

theorem Ct.mem_takeFault_changes (hn : ct.lists[m].Nodup) (q : Port) (x : Slot) :
    x ∈ (ct.takeFault m cause).ports[q].changes ↔
      x ∈ ct.ports[q].changes ∨ x ∈ ct.lists[m] ∧ ∃ c ∈ ct.claimAt x, c.holder = q := by
  have hchanges := foldl_changes (turns := fun _ => true)
    (fun b a y hy => by rw [Ct.die_slots b a (.broken (breakReasonOf cause)) true, if_neg hy])
    (fun b a p y => by rw [Ct.mem_die_changes]; simp only [and_true]) hn
    (ct.viewFaulted m) q x
  simp only [and_true] at hchanges
  rw [Ct.takeFault_eq]; exact hchanges

/-- The whole list leaves, and only it. -/
theorem Ct.takeFault_leftLists (h : ct.Tracked) :
    Ct.LeftLists (fun x => decide (x ∈ ct.lists[m])) ct (ct.takeFault m cause) := by
  have hleft := foldl_leftLists (op := fun ct sl => ct.die sl (.broken (breakReasonOf cause)) true)
    (ends := fun _ => true) (fun _ a hb => Ct.die_tracked hb a rfl true)
    (fun b a y hy => by rw [Ct.die_slots, if_neg hy])
    (fun b a hb => by simpa only [Bool.and_true] using Ct.die_leftLists hb a _ true) (h.1 m).1
    (ct := ct.viewFaulted m) h
  simp only [Bool.and_true] at hleft
  rw [Ct.takeFault_eq]; exact hleft

theorem Ct.takeFault_sameBase :
    (ct.viewFaulted m).SameBase (ct.takeFault m cause) :=
  .foldl (fun b a => Ct.die_sameBase b a _ true) _ _

/-- No two lists share a slot (R6). -/
theorem Ct.ListsRight.not_mem_other (h : ct.ListsRight) {k : Module} (hk : k ≠ m) {x : Slot} (hx : x ∈ ct.lists[k]) :
    x ∉ ct.lists[m] := fun hm => by
  obtain ⟨c, hc, -, hmod⟩ := h.live_of_mem hx
  exact h.not_mem_of_ne hc m (by rw [hmod]; exact Ne.symm hk) hm

/-- What a faulted module's list leaves of slots of one list: none of its own, every one of another. -/
theorem Ct.ListsRight.filter_faulted (h : ct.ListsRight) {k : Module} {l : List Slot} (hl : ∀ x ∈ l, x ∈ ct.lists[k]) :
    l.filter (fun x => !decide (x ∈ ct.lists[m])) = if k = m then [] else l := by
  split
  · subst_vars
    exact List.filter_eq_nil_iff.2 fun x hx => by simp only [hl x hx]; decide
  · exact List.filter_eq_self.2 fun x hx => by
      simp only [h.not_mem_other ‹_› (hl x hx)]; decide

theorem Ct.takeFault_lists (h : ct.Tracked) (k : Module) :
    (ct.takeFault m cause).lists[k] = if k = m then [] else ct.lists[k] := by
  rw [(Ct.takeFault_leftLists h).1 k]
  exact h.1.filter_faulted fun _ hx => hx

/-- A cursor on the faulted module's list stands before first; another does not move (R24). -/
theorem Ct.takeFault_cursor (h : ct.Tracked) (q : Port) :
    (ct.takeFault m cause).ports[q].cursor =
      if ct.ports[q].cursor.any (fun c => decide (c.module = m)) then some { module := m, after := none }
      else ct.ports[q].cursor := by
  rw [(Ct.takeFault_leftLists h).2 q]
  cases hcur : ct.ports[q].cursor with
  | none => rfl
  | some cur =>
    obtain ⟨passed, rest, hl, hpos⟩ := h.ordered.cursor_split hcur
    have hstay := h.1.filter_faulted (m := m) (k := cur.module) (l := passed)
      fun x hx => by rw [hl]; exact List.mem_append_left _ hx
    have hmoved : cursorPast ct (fun x => decide (x ∈ ct.lists[m])) cur =
        { module := cur.module, after := (if cur.module = m then [] else passed).getLast? } := by
      rw [← hstay, hpos]; exact cursorPast_split hl (h.1 cur.module).1 _
    rw [Option.map_some, hmoved, Option.any_some]
    by_cases hm : cur.module = m
    · simp only [hm, decide_true, if_true]; rfl
    · simp only [hm, decide_false, if_false, Bool.false_eq_true]; rw [← hpos]

theorem Ct.takeFault_levelAt (hn : ct.lists[m].Nodup) (x : Slot) :
    (ct.takeFault m cause).levelAt x = ct.levelAt x := by
  unfold Ct.levelAt
  rw [Ct.takeFault_claimAt hn]
  cases ct.claimAt x with
  | none => rfl
  | some c => simp only [Option.map_some]; split <;> rfl

/-- Only the faulted module's claimed level falls (R8). -/
theorem Ct.takeFault_worked (h : ct.Tracked) (hr : ct.ClaimedRight) (k : Module) :
    (ct.takeFault m cause).worked k = if k = m then 0 else ct.claimed[k] := by
  have hlevels : (ct.takeFault m cause).levelAt = ct.levelAt := funext (Ct.takeFault_levelAt (h.1 m).1)
  unfold Ct.worked
  rw [hlevels, Ct.takeFault_lists h]
  split
  · rfl
  · exact (hr k).symm

end

/-- One module's level changed, so its notice alone goes out (R8). -/
theorem filter_allModules_changed (old : Vector Level 32) (m : Module) :
    (allModules.filter fun k => (if k = m then (0 : Level) else old[k]) ≠ old[k]) = if old[m] = 0 then [] else [m] := by
  split
  · rename_i h0
    refine List.filter_eq_nil_iff.2 fun k _ => ?_
    by_cases hk : k = m
    · subst hk; simp [h0]
    · simp [hk]
  · rename_i h0
    have hone : allModules.filter (· = m) = [m] := by
      rw [List.filter_eq, List.count_eq_one_of_mem (show allModules.Nodup from List.nodup_finRange 32) (mem_allModules m)]; rfl
    rw [← hone]
    refine List.filter_congr fun k _ => ?_
    by_cases hk : k = m
    · subst hk; simp only [if_true, decide_true, ne_eq, Ne.symm h0, not_false_eq_true]
    · simp [hk]

/-- Settles O36: the list breaks from head to tail (`Ct.takeFault`), then the claimed levels are worked out. -/
theorem faultNoticeBreaksEveryClaim : Obligations.FaultNoticeBreaksEveryClaim := by
  unfold Obligations.FaultNoticeBreaksEveryClaim
  intro s e m cause rest hr h hlists hcursors hclaimed reason
  have ht : s.ct.Tracked := ⟨hlists, hcursors⟩
  have hn := (hlists m).1
  have hreason : breakReasonOf cause = reason := by cases cause <;> rfl
  obtain ⟨⟨hviews, hmark, hdir, hdivider⟩, hsame⟩ := Ct.takeFault_sameBase (ct := s.ct) (m := m) (cause := cause)
  obtain ⟨hlevels, hlinks⟩ := relevelled_of_relevel (s := s.dropCtNotice e)
    (u := (s.dropCtNotice e).onCt fun ct => ct.takeFault m cause) hsame rfl
  generalize hT : ((s.dropCtNotice e).onCt fun ct => ct.takeFault m cause).relevel = t at hlevels hlinks
  have hct : t.ct = (s.ct.takeFault m cause).relevelled := by rw [← hT]; exact State.relevel_ct_eq _
  have hworked (k : Module) : t.ct.worked k = if k = m then 0 else s.ct.claimed[k] := by
    rw [hct, Ct.relevelled_worked, Ct.takeFault_worked ht hclaimed]
  obtain ⟨kviews, kmark, kdir, kdivider⟩ := Ct.relevelled_sameRecords (s.ct.takeFault m cause)
  have hexec : exec (.faultNoticeAtCt e) s = .next t := hT ▸ exec_faultNoticeAtCt hr h
  refine ⟨t, hexec, ?_, ?_, ?_, ?_, fun k hk => ⟨?_, ?_, ?_⟩, ?_, ?_, fun sl => ⟨?_, ?_⟩, fun q sl => ?_, fun q => ?_, ?_,
    ?_, ?_, ?_⟩
  · rw [← hT]; simp [SameBlocks]
  · rw [← hT]; simp [SamePorts]
  · rw [hlinks, State.dropCtNotice_links_of_head h]
    simp only [hworked, State.dropCtNotice_ct]
    rw [filter_allModules_changed]
    split
    · rfl
    · simp only [List.map_cons, List.map_nil, if_true]
  · rw [hct, kviews, hviews, Ct.viewFaulted_views]; simp
  · rw [hct, kviews, hviews, Ct.viewFaulted_views]; exact modifyAt_get_ne _ _ hk
  · rw [hct, Ct.relevelled_lists, Ct.takeFault_lists ht, if_neg hk]
  · rw [hlevels, hworked, if_neg hk]
  · rw [hct, Ct.relevelled_lists, Ct.takeFault_lists ht, if_pos rfl]
  · rw [hlevels, hworked, if_pos rfl]
  · rw [hct, Ct.relevelled_slots]; exact (s.ct.takeFault_inPlace m cause).gens sl
  · rw [hct, Ct.relevelled_claimAt, Ct.takeFault_claimAt hn, hreason]
  · rw [hct, Ct.relevelled_ports]; exact Ct.mem_takeFault_changes hn q sl
  · rw [hct, Ct.relevelled_ports]; exact Ct.takeFault_cursor ht q
  · rw [hct]; exact sameCounts_relevelled (s.ct.takeFault_inPlace m cause).counts
  · rw [hct, kmark]; exact hmark
  · rw [hct, kdir]; exact hdir
  · rw [hct, kdivider]; exact hdivider

end Sys2Proof.Machine


namespace Sys2Proof.Machine

/-! ### The tick at the claim table (R50, R51) -/

theorem allSlots_nodup : allSlots.Nodup := List.nodup_finRange 128

theorem lapsesAt_of_right {c : Claim} (h : c.right) :
    lapsesAt c = (c.state.live && decide (c.leaseLeft = some 1)) := by
  obtain ⟨-, -, -, hrange, -⟩ := h
  unfold lapsesAt
  cases hn : c.leaseLeft with
  | none => rfl
  | some n =>
    obtain ⟨h1, -⟩ := hrange n hn
    simp only [Option.any_some, Option.some.injEq, show n ≤ 1 ↔ n = 1 by omega]

/-- A dead claim has no lease remaining, so the tick leaves it. -/
theorem ticked_of_right {c : Claim} (h : c.right) :
    c.ticked =
      if (c.state.live && decide (c.leaseLeft = some 1)) = true then { c with state := .lapsed, leaseLeft := none }
      else { c with leaseLeft := c.leaseLeft.map (· - 1) } := by
  unfold Claim.ticked
  rw [lapsesAt_of_right h]
  obtain ⟨-, -, hiff, -, -⟩ := h
  cases hl : c.state.live with
  | true => simp
  | false =>
    have hnone : c.leaseLeft = none := by simpa [hl] using hiff
    cases c; subst hnone; rfl

section
variable {ct : Ct}

theorem Ct.any_lapsesAt (h : ct.ClaimsRight) (x : Slot) : (ct.claimAt x).any lapsesAt = ct.runsOut x := by
  unfold Ct.runsOut
  cases hc : ct.claimAt x with
  | none => rfl
  | some c => exact lapsesAt_of_right (h x c hc)

theorem Ct.takeTick_claimAt (h : ct.ClaimsRight) (x : Slot) :
    ct.takeTick.claimAt x = (ct.claimAt x).map fun c =>
      if ct.runsOut x = true then { c with state := .lapsed, leaseLeft := none }
      else { c with leaseLeft := c.leaseLeft.map (· - 1) } := by
  have hslots := foldl_slots (g := fun r => { r with claim := r.claim.map Claim.ticked }) Ct.countDown_slots
    allSlots_nodup ct x
  rw [if_pos (mem_allSlots x)] at hslots
  refine (congrArg SlotRec.claim hslots).trans (Option.map_congr fun c hc => ?_)
  have hc : ct.claimAt x = some c := hc
  rw [Ct.runsOut, hc, ticked_of_right (h x c hc)]
  rfl

theorem Ct.mem_takeTick_changes (h : ct.ClaimsRight) (q : Port) (x : Slot) :
    x ∈ ct.takeTick.ports[q].changes ↔
      x ∈ ct.ports[q].changes ∨ ct.runsOut x = true ∧ ∃ c ∈ ct.claimAt x, c.holder = q := by
  unfold Ct.takeTick
  rw [foldl_changes (fun b a y hy => by rw [Ct.countDown_slots, if_neg hy]) Ct.mem_countDown_changes
    allSlots_nodup ct q x, ← Ct.any_lapsesAt h]
  simp only [mem_allSlots, true_and]
  refine or_congr_right ?_
  cases ct.claimAt x <;> simp [and_comm]

/-- The claims that run out leave together (R24, R51). -/
theorem Ct.takeTick_leftLists (ht : ct.Tracked) (h : ct.ClaimsRight) : Ct.LeftLists ct.runsOut ct ct.takeTick := by
  have hleft := foldl_leftLists (op := Ct.countDown) (ends := (·.any lapsesAt))
    (fun _ a hb => Ct.countDown_tracked hb a) (fun b a y hy => by rw [Ct.countDown_slots, if_neg hy])
    (fun _ a hb => Ct.countDown_leftLists hb a) allSlots_nodup ht
  refine hleft.congr ht.ordered fun _ x _ => ?_
  rw [Ct.any_lapsesAt h, decide_eq_true (mem_allSlots x), Bool.true_and]

end

/-- Both commands take the same tick (log 8). -/
theorem exec_tick_at_ct {s : State} {i : Instr} (hr : Running s) (htick : s.ticks.ct = true)
    (hi : i = .leaseCountdown ∨ ∃ sl : Slot, ∃ c ∈ s.ct.claimAt sl, i = .lapse sl ∧
      c.state.live = true ∧ c.leaseLeft = some 1) : exec i s = .next s.takeCtTick := by
  rcases hi with rfl | ⟨sl, c, hc, rfl, hlive, hone⟩
  · change Host.Outcome.next (s.awake _) = _
    rw [State.awake_running _ hr, if_pos htick]
  · have hout : s.ct.runsOut sl = true := by
      unfold Ct.runsOut
      rw [show s.ct.claimAt sl = some c from hc, Option.any_some, hlive, hone]; rfl
    change Host.Outcome.next (s.awake _) = _
    rw [State.awake_running _ hr, htick, hout]; rfl

/-- Settles O37: every slot is counted down once (`Ct.takeTick`), then the claimed levels are worked out. -/
theorem theTickCountsEveryLease : Obligations.TheTickCountsEveryLease := by
  unfold Obligations.TheTickCountsEveryLease
  intro s i hr htick hlists hclaims hcursors hi lapses
  have hleft := Ct.takeTick_leftLists ⟨hlists, hcursors⟩ hclaims
  have hbase := s.ct.takeTick_sameBase
  have hct : s.takeCtTick.ct = s.ct.takeTick.relevelled := by
    rw [State.takeCtTick, State.relevel_ct_eq, State.onCt_ct, State.onTicks_ct]
  refine ⟨_, exec_tick_at_ct hr htick hi, by simp [SamePorts, State.takeCtTick], ?_, ?_, ?_, ?_, ?_, ?_, ?_, ?_, ?_,
    fun sl => ⟨?_, ?_⟩, fun m => ?_, fun q sl => ?_, fun q => ?_, ?_⟩
  · rw [hct]; exact sameRecords_relevelled hbase.1
  · exact relevelled_of_relevel (u := (s.onTicks _).onCt Ct.takeTick) hbase.2
      (by rw [State.onCt_links, State.onTicks_links])
  · simp [State.takeCtTick]
  · simp [State.takeCtTick]
  · simp [State.takeCtTick]
  · simp [State.takeCtTick]
  · simp [State.takeCtTick, hr.1]
  · simp [State.takeCtTick]
  · simp [State.takeCtTick]
  · rw [hct, Ct.relevelled_slots]; exact s.ct.takeTick_inPlace.gens sl
  · rw [hct, Ct.relevelled_claimAt]; exact Ct.takeTick_claimAt hclaims sl
  · rw [hct, Ct.relevelled_lists]; exact hleft.1 m
  · rw [hct, Ct.relevelled_ports]; exact Ct.mem_takeTick_changes hclaims q sl
  · rw [hct, Ct.relevelled_ports]; exact hleft.2 q
  · rw [hct]; exact sameCounts_relevelled s.ct.takeTick_inPlace.counts

end Sys2Proof.Machine


namespace Sys2Proof.Machine

/-! ### Numbers in result bytes (Table 10-5) -/

theorem highByte_eq (n : Nat) : highByte n = BitVec.ofNat 8 (n / 256) := by
  apply BitVec.eq_of_toNat_eq
  simp only [highByte, BitVec.extractLsb'_toNat, BitVec.toNat_ofNat, Nat.shiftRight_eq_div_pow]
  omega

theorem lowByte_eq (n : Nat) : lowByte n = BitVec.ofNat 8 n := by
  apply BitVec.eq_of_toNat_eq
  simp only [lowByte, BitVec.extractLsb'_toNat, BitVec.toNat_ofNat, Nat.shiftRight_zero]
  omega

/-- Bits 7 to 6 of the holder and module byte are the holder, bits 4 to 0 the module. -/
theorem holderByte_eq (p : Port) (m : Module) : holderByte p m = BitVec.ofNat 8 (64 * p.val + m.val) := by
  revert p m
  decide

/-- The claim byte of a live claim's state alone. -/
theorem stateByte_of_live {st : ClaimState} (h : st.live = true) :
    stateByte st = if st = .granted then 0x02 else 0x01 := by
  cases st with
  | pending => rfl
  | granted => rfl
  | broken _ => cases h
  | lapsed => cases h
  | evicted => cases h

/-! ### One claim becomes another -/

theorem claimNow_same {ct : Ct} {sl : Slot} {c : Claim} (h : ct.claimAt sl = some c) : ClaimNow ct ct sl c := by
  refine ⟨?_, fun _ _ => rfl⟩
  rw [← h]; rfl

theorem Ct.onClaim_claimNow {ct : Ct} {sl : Slot} {c : Claim} (h : ct.claimAt sl = some c) (f : Claim → Claim) :
    ClaimNow ct (ct.onClaim sl f) sl (f c) := by
  have hclaim : ct.slots[sl].claim = some c := h
  refine ⟨?_, fun x hx => ?_⟩
  · rw [Ct.onClaim_slots, modifyAt_get_self, hclaim]; rfl
  · rw [Ct.onClaim_slots, modifyAt_get_ne _ _ hx]

theorem claimNow_claimAt {c d : Ct} {sl : Slot} {new : Claim} (h : ClaimNow c d sl new) : d.claimAt sl = some new := by
  rw [Ct.claimAt, h.1]

/-! ### Requests that change the claim table with no claimed level worked out -/

section
variable {s : State} {p : Port} {r : Request} {code : Byte} {accepts : Byte → Bool}
  {body : Port → Request → State → State × Answer} {a : Answer}

/-- A body that changes nothing but the claim table leaves the links and the other blocks. -/
theorem served_onCt_frame (h : Serving s p r code) (ha : accepts code = true)
    (hb : ∃ f a, body p r (s.takeRequest p) = ((s.takeRequest p).onCt f, a)) :
    (s.serve accepts body).links = s.links ∧ SameBlocks s (s.serve accepts body) := by
  obtain ⟨f, a, hf⟩ := hb
  rw [serve_of_serving h ha hf]
  exact ⟨rfl, rfl, rfl, rfl, rfl, rfl, rfl, rfl⟩

theorem served_onCt (h : Serving s p r code) (ha : accepts code = true) {f : Ct → Ct}
    (hb : body p r (s.takeRequest p) = ((s.takeRequest p).onCt f, a)) :
    (s.serve accepts body).ct = f s.ct ∧ Answered s (s.serve accepts body) p r a id := by
  rw [serve_of_serving h ha hb]
  exact ⟨rfl, answered_of_taken rfl rfl⟩

/-- A body that changes the requester's items alone: change set, cursor, count or quota. -/
theorem served_onPort (h : Serving s p r code) (ha : accepts code = true) {f : CtPort → CtPort}
    (hb : body p r (s.takeRequest p) = ((s.takeRequest p).onCt fun ct => ct.onPort p f, a)) :
    (s.serve accepts body).ct.ports[p] = f s.ct.ports[p] ∧
      (∀ q : Port, q ≠ p → (s.serve accepts body).ct.ports[q] = s.ct.ports[q]) ∧
      (s.serve accepts body).ct = { s.ct with ports := (s.serve accepts body).ct.ports } ∧
      Answered s (s.serve accepts body) p r a id := by
  obtain ⟨hct, hans⟩ := served_onCt h ha hb
  rw [hct, Ct.onPort_ports]
  exact ⟨modifyAt_get_self .., fun q hq => modifyAt_get_ne _ _ hq, rfl, hans⟩

end

end Sys2Proof.Machine


namespace Sys2Proof.Machine

/-! ### PLACE that fails (R26, R29) -/

/-- Outside these values a module index and a claim level are spelled (Table 10-4). -/
theorem exists_place_operands {r : Request}
    (h : ¬(32 ≤ (r.byte 2).toNat ∨ (r.byte 3).toNat = 0 ∨ 4 ≤ (r.byte 3).toNat)) :
    ∃ m l, moduleOf (r.byte 2) = some m ∧ claimLevelOf (r.byte 3) = some l := by
  obtain ⟨hm, hl⟩ := not_or.1 h
  refine ⟨_, _, dif_pos (not_le.1 hm), dif_pos ?_⟩
  omega

theorem placeBody_badOperand {p : Port} {r : Request} {s : State}
    (h : 32 ≤ (r.byte 2).toNat ∨ (r.byte 3).toNat = 0 ∨ 4 ≤ (r.byte 3).toNat) :
    placeBody p r s = (s, .refused .badArgument) := by
  rcases h with h | h
  · simp only [placeBody, moduleOf_eq_none.2 h]
  · simp only [placeBody, claimLevelOf_eq_none.2 h]
    cases moduleOf (r.byte 2) <;> rfl

/-- The checks of PLACE after its operands' ranges, in their order (R29). -/
theorem placeBody_refused {p : Port} {r : Request} {s : State} {m : Module} {l : Level} {st : Status}
    (hm : moduleOf (r.byte 2) = some m) (hl : claimLevelOf (r.byte 3) = some l)
    (hst :
      if s.ct.dir[m].present = false then st = .noModule
      else if s.ct.views[m].fault = true ∨ s.domState s.ct.dir[m].domain = .fault then st = .faulted
      else if l = 2 ∧ s.ct.dir[m].wakeUsed = false then st = .badArgument
      else if s.ct.ports[p].quota ≤ s.ct.ports[p].count then st = .quota
      else st = .full ∧ ∀ sl : Slot, s.ct.claimAt sl ≠ none) :
    placeBody p r s = (s, .refused st) := by
  have hfaulted : s.refusesFaulted m = true ↔ s.ct.views[m].fault = true ∨ s.domState s.ct.dir[m].domain = .fault := by
    rw [State.refusesFaulted, Bool.or_eq_true, decide_eq_true_iff]
  simp only [placeBody, hm, hl, Bool.not_eq_true', hfaulted]
  split at hst
  · rename_i h; rw [if_pos h, hst]
  · rename_i h; rw [if_neg h]
    split at hst
    · rename_i h; rw [if_pos h, hst]
    · rename_i h; rw [if_neg h]
      split at hst
      · rename_i h; rw [if_pos h, hst]
      · rename_i h; rw [if_neg h]
        split at hst
        · rename_i h; rw [if_pos h, hst]
        · rename_i h; rw [if_neg h]
          obtain ⟨rfl, hfull⟩ := hst
          rw [Ct.freeSlot?_eq_none.2 hfull]

/-- Settles O14: the operands' ranges first, then the checks in their order. -/
theorem placeReportsTheFirstFailingCheck : Obligations.PlaceReportsTheFirstFailingCheck := by
  unfold Obligations.PlaceReportsTheFirstFailingCheck
  intro s p r st hs hst
  refine ⟨_, rfl, served_unchanged hs (accepts := (· == codePlace)) rfl (body := placeBody)
    (a := { status := st }) ?_⟩
  split at hst
  · rename_i hbad
    rw [hst]; exact placeBody_badOperand hbad
  · rename_i hgood
    obtain ⟨m, l, hm, hl⟩ := exists_place_operands hgood
    have hlevel : (r.byte 3).toNat = 2 ↔ l = 2 := by
      rw [(claimLevelOf_eq_some.1 hl).1, Fin.ext_iff]; rfl
    have hchecks := hst m (moduleOf_eq_some.1 hm)
    simp only [hlevel] at hchecks
    exact placeBody_refused hm hl hchecks

/-! ### CHANGE (R32 to R34) -/

/-- The claim `c` at level `l`, its state decided from the view `v` (R33). -/
def Claim.decidedBy (c : Claim) (v : ModView) (l : Level) : Claim :=
  { c with
    level := l
    state := v.settles l
    genSeen := if v.settles l = .granted ∧ c.state = .pending then some v.gen else c.genSeen }

/-- It is GRANTED where the view satisfies the level, else PENDING with the generation seen as it was (R33). -/
theorem Claim.decidedBy_eq (c : Claim) (v : ModView) (l : Level) :
    c.decidedBy v l =
      if l ≤ v.level then
        { c with level := l, state := .granted, genSeen := if c.state = .pending then some v.gen else c.genSeen }
      else { c with level := l, state := .pending } := by
  unfold Claim.decidedBy ModView.settles
  by_cases h : l ≤ v.level
  · simp only [if_pos h, true_and]
  · simp only [if_neg h, reduceCtorEq, false_and, if_false]

/-- A CHANGE to another level decides the claim afresh from its module's view (R33). -/
theorem Ct.changeLevel_claimNow {ct : Ct} {sl : Slot} {c : Claim} (h : ct.claimAt sl = some c) (l : Level) :
    ClaimNow ct (ct.changeLevel sl l) sl (c.decidedBy ct.views[c.module] l) :=
  Ct.onClaim_claimNow h _

section
variable {s : State} {p : Port} {r : Request} {sl : Slot} {c : Claim} {l : Level}

/-- CHANGE to the level the claim has (R33). -/
theorem changeBody_sameLevel (hh : s.handle r = some (sl, c)) (hp : c.holder = p) (hlive : c.state.live = true)
    (hl : claimLevelOf (r.byte 4) = some l) (hwake : ¬(l = 2 ∧ s.ct.dir[c.module].wakeUsed = false))
    (hlc : l = c.level) : changeBody p r s = (s, changeAnswer s.ct.views[c.module] c) := by
  simp only [changeBody, hh, hp, hlive, hl, if_neg hwake, if_pos hlc, ne_eq, not_true, if_false, Bool.not_true,
    Bool.false_eq_true]

/-- CHANGE to another level (R33, R34). -/
theorem changeBody_otherLevel (hh : s.handle r = some (sl, c)) (hp : c.holder = p) (hlive : c.state.live = true)
    (hl : claimLevelOf (r.byte 4) = some l) (hwake : ¬(l = 2 ∧ s.ct.dir[c.module].wakeUsed = false))
    (hlc : l ≠ c.level) :
    changeBody p r s =
      ((s.onCt fun ct => ct.changeLevel sl l).relevel,
        changeAnswer s.ct.views[c.module] (c.decidedBy s.ct.views[c.module] l)) := by
  have hclaim := claimNow_claimAt (Ct.changeLevel_claimNow (State.handle_eq_some hh) l)
  simp only [changeBody, hh, hp, hlive, hl, if_neg hwake, if_neg hlc, ne_eq, not_true, if_false, Bool.not_true,
    Bool.false_eq_true, hclaim, Option.getD_some]
  rfl

end

/-- Settles O15: to the claim's own level nothing changes; to another one `Ct.changeLevel` decides the claim afresh. -/
theorem changeDecidesAfresh : Obligations.ChangeDecidesAfresh := by
  unfold Obligations.ChangeDecidesAfresh
  intro s p r sl c l hs hn hp hlive hlevel h1 hwake v new
  have hclaim : s.ct.claimAt sl = some c := hn.2.2
  have hl : claimLevelOf (r.byte 4) = some l := claimLevelOf_eq_some.2 ⟨hlevel, h1⟩
  have hwake' : ¬(l = 2 ∧ s.ct.dir[c.module].wakeUsed = false) := fun ⟨h2, hw⟩ => by
    rw [hwake h2] at hw; cases hw
  by_cases hlc : l = c.level
  · have hnew : new = c := if_pos hlc
    obtain ⟨hct, hlinks, hblocks, hans⟩ := served_unchanged hs (accepts := (· == codeChange)) rfl
      (changeBody_sameLevel (handle_of_names hn) hp hlive hl hwake' hlc)
    refine ⟨_, rfl, hblocks, ?_, ?_, ?_, ?_, ?_, ?_⟩
    · rw [hct]; exact ⟨rfl, rfl, rfl, rfl⟩
    · rw [hct, hnew]; exact claimNow_same hclaim
    · rw [hct]
    · rw [hct]
    · rw [if_pos hlc, hct]; exact ⟨rfl, hlinks⟩
    · rw [hnew, hlc]; exact hans
  · have hnew : new = c.decidedBy v l := (if_neg hlc).trans (c.decidedBy_eq v l).symm
    obtain ⟨hblocks, hrecords, hlevels, hct, hans⟩ := served_relevel hs (accepts := (· == codeChange)) rfl
      (changeBody_otherLevel (handle_of_names hn) hp hlive hl hwake' hlc) (.refl s.ct)
    refine ⟨_, rfl, hblocks, hrecords, ?_, ?_, ?_, ?_, ?_⟩
    · rw [hct, hnew]; exact claimNow_relevelled (Ct.changeLevel_claimNow hclaim l)
    · rw [hct, Ct.relevelled_lists]; rfl
    · rw [hct, Ct.relevelled_ports]; rfl
    · rw [if_neg hlc]; exact hlevels
    · rw [hnew]; exact hans

/-! ### RENEW and QUERY CLAIM (R36, R37, R40) -/

/-- A RENEW that passes its checks (R36). -/
theorem renewBody_renews {s : State} {p : Port} {r : Request} {sl : Slot} {c : Claim} {n : Nat}
    (hh : s.handle r = some (sl, c)) (hp : c.holder = p) (hlive : c.state.live = true) (hlen : c.leaseLength ≠ 0)
    (hn : n = if (r.half 4).toNat = 0 then c.leaseLength else (r.half 4).toNat) :
    renewBody p r s =
      (s.onCt fun ct => ct.onClaim sl fun c => { c with leaseLength := n, leaseLeft := some n },
        { status := .ok, b2 := stateByte c.state, b3 := highByte n, b4 := lowByte n, b5 := highByte n
          b6 := lowByte n }) := by
  simp only [renewBody, hh, hp, hlive, if_neg hlen, hn, ne_eq, not_true, if_false, Bool.not_true, Bool.false_eq_true]

/-- Settles O16: the body writes the lease of the one claim that the handle names. -/
theorem renewRestartsTheLease : Obligations.RenewRestartsTheLease := by
  unfold Obligations.RenewRestartsTheLease
  intro s p r sl c hs hn hp hlive hlen n
  have hbody := renewBody_renews (handle_of_names (p := p) hn) hp hlive hlen (n := n) rfl
  obtain ⟨hlinks, hblocks⟩ := served_onCt_frame hs (accepts := (· == codeRenew)) rfl ⟨_, _, hbody⟩
  obtain ⟨hct, hans⟩ := served_onCt hs (accepts := (· == codeRenew)) rfl hbody
  rw [stateByte_of_live hlive, highByte_eq, lowByte_eq] at hans
  refine ⟨_, rfl, hblocks, ?_, hlinks, ?_, ?_, ?_, ?_, hans⟩ <;> rw [hct]
  · exact ⟨rfl, rfl, rfl, rfl⟩
  · exact Ct.onClaim_claimNow hn.2.2 _
  · rfl
  · rfl
  · rfl

/-- QUERY CLAIM changes nothing (R40). -/
theorem queryClaimBody_unchanged (p : Port) (r : Request) (s : State) :
    queryClaimBody p r s = (s, (queryClaimBody p r s).2) := by
  unfold queryClaimBody; split <;> rfl

/-- Settles O19: the body leaves the state, and what it answers turns on the handle alone. -/
theorem queryClaimReportsTheClaim : Obligations.QueryClaimReportsTheClaim := by
  unfold Obligations.QueryClaimReportsTheClaim
  intro s p r hs
  obtain ⟨hct, hlinks, hblocks, hans⟩ := served_unchanged hs (accepts := (· == codeQueryClaim)) rfl
    (queryClaimBody_unchanged p r (s.takeRequest p))
  refine ⟨_, rfl, hct, hlinks, hblocks, fun hnone => ?_, fun sl c _ hn => ?_⟩
  · simp only [queryClaimBody, handle_of_namesNone hnone] at hans
    exact hans
  · simp only [queryClaimBody, handle_of_names hn, holderByte_eq, highByte_eq, lowByte_eq] at hans
    exact hans

/-! ### BROWSE and BROWSE NEXT (R41, R42) -/

theorem browseBody_onCt (p : Port) (r : Request) (s : State) : ∃ f a, browseBody p r s = (s.onCt f, a) := by
  unfold browseBody
  split
  · exact ⟨id, _, rfl⟩
  · exact ⟨_, _, rfl⟩

/-- Settles O22: the body writes the requester's cursor, or refuses an index above 31. -/
theorem browseSetsTheCursor : Obligations.BrowseSetsTheCursor := by
  unfold Obligations.BrowseSetsTheCursor
  intro s p r hs
  obtain ⟨hlinks, hblocks⟩ := served_onCt_frame hs (accepts := (· == codeBrowse)) rfl (browseBody_onCt p r _)
  refine ⟨_, rfl, hlinks, hblocks, fun hbad => ?_, fun m hm => ?_⟩
  · obtain ⟨hct, -, -, hans⟩ := served_unchanged hs (accepts := (· == codeBrowse)) rfl (body := browseBody)
      (a := .refused .badArgument) (by simp only [browseBody, moduleOf_eq_none.2 hbad])
    exact ⟨hct, hans⟩
  · have hbyte : byteOf m.val = r.byte 2 := by rw [byteOf, ← hm, BitVec.ofNat_toNat, BitVec.setWidth_eq]
    exact served_onPort hs (accepts := (· == codeBrowse)) rfl (body := browseBody)
      (by simp only [browseBody, moduleOf_eq_some.2 hm, hbyte]; rfl)

theorem browseNextBody_onCt (p : Port) (r : Request) (s : State) : ∃ f a, browseNextBody p r s = (s.onCt f, a) := by
  unfold browseNextBody
  split
  · exact ⟨id, _, rfl⟩
  · split
    · exact ⟨id, _, rfl⟩
    · exact ⟨_, _, rfl⟩

/-- With no claim to follow, BROWSE NEXT answers EMPTY (R42). -/
theorem browseNextBody_empty {p : Port} {r : Request} {s : State}
    (h : ∀ cur ∈ s.ct.ports[p].cursor, s.ct.following cur = none) :
    browseNextBody p r s = (s, { status := .empty }) := by
  cases hc : s.ct.ports[p].cursor with
  | none => simp only [browseNextBody, hc]
  | some cur => simp only [browseNextBody, hc, h cur hc, Option.bind_none]

/-- BROWSE NEXT returns the claim that follows, and moves the cursor to it (R42). -/
theorem browseNextBody_returns {p : Port} {r : Request} {s : State} {cur : Cursor} {sl : Slot} {c : Claim}
    (hcur : s.ct.ports[p].cursor = some cur) (hsl : s.ct.following cur = some sl) (hc : s.ct.claimAt sl = some c) :
    browseNextBody p r s =
      (s.onCt fun ct => ct.onPort p fun q => { q with cursor := some { module := cur.module, after := some sl } },
        browseAnswer sl s.ct.slots[sl].gen c) := by
  simp only [browseNextBody, hcur, hsl, hc, Option.bind_some, Option.map_some]

/-- Settles O23: a cursor splits its list into claims passed and claims to come, and the claim returned is the head of
those to come. -/
theorem browseNextReturnsTheFollowingClaim : Obligations.BrowseNextReturnsTheFollowingClaim := by
  unfold Obligations.BrowseNextReturnsTheFollowingClaim
  intro s p r hs hlists
  obtain ⟨hlinks, hblocks⟩ := served_onCt_frame hs (accepts := (· == codeBrowseNext)) rfl (browseNextBody_onCt p r _)
  refine ⟨_, rfl, hlinks, hblocks, ?_⟩
  intro nothing returned
  have hnothing (h : ∀ cur ∈ s.ct.ports[p].cursor, s.ct.following cur = none) : nothing := by
    obtain ⟨hct, -, -, hans⟩ := served_unchanged hs (accepts := (· == codeBrowseNext)) rfl
      (browseNextBody_empty (s := s.takeRequest p) (p := p) (r := r) h)
    exact ⟨hct, hans⟩
  have hreturned {m : Module} {sl : Slot} {after : Option Slot}
      (hcur : s.ct.ports[p].cursor = some { module := m, after := after })
      (hsl : s.ct.following { module := m, after := after } = some sl) : returned m sl := by
    obtain ⟨c, hc, hlive, -⟩ := Ct.ListsRight.live_of_mem hlists (Ct.mem_of_following hsl)
    obtain ⟨hport, hother, hct, hans⟩ := served_onPort hs (accepts := (· == codeBrowseNext)) rfl
      (browseNextBody_returns (s := s.takeRequest p) (p := p) (r := r) hcur hsl hc)
    rw [browseAnswer, highByte_eq, lowByte_eq] at hans
    exact ⟨hport, hother, hct, c, hc, hlive, hans⟩
  have hboth {m : Module} {after : Option Slot} {rest : List Slot}
      (hcur : s.ct.ports[p].cursor = some { module := m, after := after })
      (hfollow : s.ct.following { module := m, after := after } = rest.head?) :
      (rest = [] → nothing) ∧ ∀ sl ∈ rest.head?, returned m sl := by
    refine ⟨fun he => hnothing fun cur h => ?_, fun sl hsl => hreturned hcur (hfollow.trans hsl)⟩
    rw [hcur] at h
    cases h
    rw [hfollow, he]; rfl
  refine ⟨fun hnone => hnothing fun cur h => ?_, fun m hcur => hboth hcur rfl, fun m x before rest hcur hl => ?_⟩
  · rw [hnone] at h; cases h
  · have hsplit : s.ct.lists[m] = (before ++ [x]) ++ rest := by rw [hl, List.append_cons]
    have hfollow := Ct.following_split hsplit (hlists m).1
    rw [List.getLast?_concat] at hfollow
    exact hboth hcur hfollow

/-! ### TAKE CHANGE (R43) -/

theorem takeChangeBody_onCt (p : Port) (r : Request) (s : State) : ∃ f a, takeChangeBody p r s = (s.onCt f, a) := by
  unfold takeChangeBody
  split
  · exact ⟨id, _, rfl⟩
  · exact ⟨_, _, rfl⟩

/-- The lowest slot of an ascending list is its head, and without it the tail is left. -/
theorem eq_cons_filter_of_lowest {l : List Slot} {sl : Slot} (hl : l.Pairwise (· < ·)) (hsl : sl ∈ l)
    (hlow : ∀ x ∈ l, sl ≤ x) : l = sl :: l.filter (· ≠ sl) := by
  cases l with
  | nil => cases hsl
  | cons a rest =>
    obtain ⟨ha, -⟩ := List.pairwise_cons.1 hl
    have hhead : a = sl := by
      rcases List.mem_cons.1 hsl with h | h
      · exact h.symm
      · exact absurd (ha sl h) (not_lt.2 (hlow a List.mem_cons_self))
    subst hhead
    have hrest : rest.filter (· ≠ a) = rest := List.filter_eq_self.2 fun x hx => decide_eq_true (ha x hx).ne'
    rw [List.filter_cons, if_neg (by simp), hrest]

/-- TAKE CHANGE reports the claim of the set's first slot and takes the slot out (R43). -/
theorem takeChangeBody_reports {p : Port} {r : Request} {s : State} {sl : Slot} {rest : List Slot} {c : Claim}
    (hset : s.ct.ports[p].changes = sl :: rest) (hc : s.ct.claimAt sl = some c) :
    takeChangeBody p r s =
      (s.onCt fun ct => ct.onPort p fun q => { q with changes := rest }, changeReport sl s.ct.slots[sl].gen c) := by
  simp only [takeChangeBody, hset, hc]

/-- Settles O25: a change set is ascending, so its lowest slot is the head, which the body takes. -/
theorem takeChangeReportsTheLowestSlot : Obligations.TakeChangeReportsTheLowestSlot := by
  unfold Obligations.TakeChangeReportsTheLowestSlot
  intro s p r hs hsets
  obtain ⟨hlinks, hblocks⟩ := served_onCt_frame hs (accepts := (· == codeTakeChange)) rfl (takeChangeBody_onCt p r _)
  refine ⟨_, rfl, hlinks, hblocks, fun hnone => ?_, fun sl hsl c hc hlow => ?_⟩
  · obtain ⟨hct, -, -, hans⟩ := served_unchanged hs (accepts := (· == codeTakeChange)) rfl (body := takeChangeBody)
      (a := { status := .empty }) (by simp only [takeChangeBody, State.takeRequest_ct, hnone])
    exact ⟨hct, hans⟩
  · have hset := eq_cons_filter_of_lowest (hsets p).1 hsl hlow
    exact served_onPort hs (accepts := (· == codeTakeChange)) rfl
      (takeChangeBody_reports (s := s.takeRequest p) (r := r) hset hc)

end Sys2Proof.Machine


namespace Sys2Proof.Machine

/-! ### Byte 1 of an answer (R157) -/

theorem echoByte_sequence (n : BitVec 4) (overrun frame changes alerts : Bool) :
    (echoByte n overrun frame changes alerts).setWidth 4 = n := BitVec.setWidth_append_eq_right

/-- Above the sequence stand the four flags. -/
theorem echoByte_getLsbD_add (n : BitVec 4) (overrun frame changes alerts : Bool) (k : Nat) :
    (echoByte n overrun frame changes alerts).getLsbD (k + 4) =
      (BitVec.ofBool alerts ++ BitVec.ofBool changes ++ BitVec.ofBool frame ++ BitVec.ofBool overrun).getLsbD k := by
  rw [echoByte, BitVec.getLsbD_append, if_neg (Nat.not_lt.2 (Nat.le_add_left 4 k)), Nat.add_sub_cancel]

theorem ofBool_append_getLsbD : ∀ b3 b2 b1 b0 : Bool,
    let flags := BitVec.ofBool b3 ++ BitVec.ofBool b2 ++ BitVec.ofBool b1 ++ BitVec.ofBool b0
    flags.getLsbD 0 = b0 ∧ flags.getLsbD 1 = b1 ∧ flags.getLsbD 2 = b2 ∧ flags.getLsbD 3 = b3 := by
  decide

/-- Bits 4 to 7 are OVERRUN, FRAME, CHANGES-PENDING and ALERTS-PENDING (Table 10-2a). -/
theorem echoByte_flags (n : BitVec 4) (overrun frame changes alerts : Bool) :
    (echoByte n overrun frame changes alerts).getLsbD 4 = overrun ∧
      (echoByte n overrun frame changes alerts).getLsbD 5 = frame ∧
      (echoByte n overrun frame changes alerts).getLsbD 6 = changes ∧
      (echoByte n overrun frame changes alerts).getLsbD 7 = alerts := by
  have hbit := echoByte_getLsbD_add n overrun frame changes alerts
  obtain ⟨h0, h1, h2, h3⟩ := ofBool_append_getLsbD alerts changes frame overrun
  exact ⟨(hbit 0).trans h0, (hbit 1).trans h1, (hbit 2).trans h2, (hbit 3).trans h3⟩

theorem statusCode_ne_waiting {st : Status} (h : st ≠ .waiting) : statusCode st ≠ 0x02 := by
  cases st with
  | waiting => exact absurd rfl h
  | _ => decide

/-! ### What the body of a request leaves of the port controllers (chapters 2, 10 and 11) -/

/-- A body of port `p` ends in the state and answer `o`: of the port controllers and the arbiter it changes at most the
alert set and the notify enable of `p`, and it does not answer WAITING. -/
structure Replied (p : Port) (s : State) (o : State × Answer) : Prop where
  lastServed : o.1.lastServed = s.lastServed
  others : ∀ q : Port, q ≠ p → o.1.ports[q] = s.ports[q]
  own : o.1.ports[p] = { s.ports[p] with alerts := o.1.ports[p].alerts, notify := o.1.ports[p].notify }
  status : o.2.status ≠ .waiting

theorem Replied.of_samePorts {p : Port} {s : State} {o : State × Answer} (h : SamePorts s o.1)
    (ha : o.2.status ≠ .waiting) : Replied p s o := by
  obtain ⟨hports, hlast⟩ := h
  exact ⟨hlast, fun q _ => by rw [hports], by rw [hports], ha⟩

theorem Replied.unchanged {p : Port} {s : State} {a : Answer} (ha : a.status ≠ .waiting) : Replied p s (s, a) :=
  .of_samePorts ⟨rfl, rfl⟩ ha

/-- The claim table changes, and claimed levels are worked out. -/
theorem samePorts_relevel (s : State) (f : Ct → Ct) : SamePorts s (s.onCt f).relevel :=
  ⟨by rw [State.relevel_ports, State.onCt_ports], by rw [State.relevel_lastServed, State.onCt_lastServed]⟩

/-- The body changes the requester's alert set or notify enable. -/
theorem Replied.of_onPort {p : Port} {s u : State} {f : PortRec → PortRec} {a : Answer} (hu : SamePorts s u)
    (hf : ∀ q, f q = { q with alerts := (f q).alerts, notify := (f q).notify }) (ha : a.status ≠ .waiting) :
    Replied p s (u.onPort p f, a) := by
  obtain ⟨hports, hlast⟩ := hu
  refine ⟨hlast, fun q hq => ?_, ?_, ha⟩
  · rw [State.onPort_ports, modifyAt_get_ne _ _ hq, hports]
  · rw [State.onPort_ports, modifyAt_get_self, hports]
    exact hf _

theorem controlOnly_replied {body : Request → State → State × Answer} (h : ∀ p r s, Replied p s (body r s)) (p : Port)
    (r : Request) (s : State) : Replied p s (controlOnly body p r s) := by
  unfold controlOnly
  split
  · exact h p r s
  · exact .unchanged nofun

end Sys2Proof.Machine


namespace Sys2Proof.Machine

/-! ### Each body (chapters 2, 8, 9, 10 and 11) -/

theorem placeBody_replied (p : Port) (r : Request) (s : State) : Replied p s (placeBody p r s) := by
  unfold placeBody
  repeat' split
  all_goals try exact .unchanged nofun
  exact .of_samePorts (samePorts_relevel ..) nofun

theorem changeBody_replied (p : Port) (r : Request) (s : State) : Replied p s (changeBody p r s) := by
  unfold changeBody
  repeat' split
  all_goals try exact .unchanged nofun
  exact .of_samePorts (samePorts_relevel ..) nofun

theorem renewBody_replied (p : Port) (r : Request) (s : State) : Replied p s (renewBody p r s) := by
  unfold renewBody
  repeat' split
  all_goals try exact .unchanged nofun
  exact .of_samePorts ⟨rfl, rfl⟩ nofun

theorem releaseBody_replied (p : Port) (r : Request) (s : State) : Replied p s (releaseBody p r s) := by
  unfold releaseBody
  repeat' split
  all_goals try exact .unchanged nofun
  exact .of_samePorts (samePorts_relevel ..) nofun

theorem queryClaimBody_replied (p : Port) (r : Request) (s : State) : Replied p s (queryClaimBody p r s) := by
  unfold queryClaimBody
  split <;> exact .unchanged nofun

theorem queryModuleBody_replied (p : Port) (r : Request) (s : State) : Replied p s (queryModuleBody p r s) := by
  unfold queryModuleBody
  split <;> exact .unchanged nofun

theorem queryDomainBody_replied (p : Port) (r : Request) (s : State) : Replied p s (queryDomainBody p r s) := by
  unfold queryDomainBody
  split <;> exact .unchanged nofun

theorem browseBody_replied (p : Port) (r : Request) (s : State) : Replied p s (browseBody p r s) := by
  unfold browseBody
  split
  · exact .unchanged nofun
  · exact .of_samePorts ⟨rfl, rfl⟩ nofun

theorem browseNextBody_replied (p : Port) (r : Request) (s : State) : Replied p s (browseNextBody p r s) := by
  unfold browseNextBody
  split
  · exact .unchanged nofun
  · split
    · exact .unchanged nofun
    · exact .of_samePorts ⟨rfl, rfl⟩ nofun

theorem takeChangeBody_replied (p : Port) (r : Request) (s : State) : Replied p s (takeChangeBody p r s) := by
  unfold takeChangeBody
  split
  · exact .unchanged nofun
  · refine .of_samePorts ⟨rfl, rfl⟩ ?_
    split <;> nofun

theorem takeAlertBody_replied (p : Port) (r : Request) (s : State) : Replied p s (takeAlertBody p r s) := by
  unfold takeAlertBody
  split
  · exact .unchanged nofun
  · exact .of_onPort ⟨rfl, rfl⟩ (fun _ => rfl) nofun

theorem setNotifyBody_replied (p : Port) (r : Request) (s : State) : Replied p s (setNotifyBody p r s) := by
  unfold setNotifyBody
  split
  · exact .unchanged nofun
  · exact .of_onPort ⟨rfl, rfl⟩ (fun _ => rfl) nofun

theorem restartBody_replied (p : Port) (r : Request) (s : State) : Replied p s (restartBody p r s) := by
  unfold restartBody
  repeat' split
  all_goals try exact .unchanged nofun
  exact .of_samePorts ⟨rfl, rfl⟩ nofun

theorem clearModuleFaultBody_replied (p : Port) (r : Request) (s : State) :
    Replied p s (clearModuleFaultBody p r s) := by
  unfold clearModuleFaultBody
  repeat' split
  all_goals try exact .unchanged nofun
  all_goals exact .of_samePorts ⟨rfl, rfl⟩ nofun

theorem detachBody_replied (p : Port) (r : Request) (s : State) : Replied p s (detachBody p r s) := by
  unfold detachBody
  exact .of_onPort (samePorts_relevel ..) (fun _ => rfl) nofun

theorem setModuleBody_replied (p : Port) (r : Request) (s : State) : Replied p s (setModuleBody r s) := by
  unfold setModuleBody
  repeat' split
  all_goals try exact .unchanged nofun
  refine .of_samePorts ?_ nofun
  dsimp only
  split <;> exact ⟨rfl, rfl⟩

theorem setModuleTimingBody_replied (p : Port) (r : Request) (s : State) : Replied p s (setModuleTimingBody r s) := by
  unfold setModuleTimingBody
  repeat' split
  all_goals try exact .unchanged nofun
  exact .of_samePorts ⟨rfl, rfl⟩ nofun

theorem setDomainBody_replied (p : Port) (r : Request) (s : State) : Replied p s (setDomainBody r s) := by
  unfold setDomainBody
  repeat' split
  all_goals try exact .unchanged nofun
  exact .of_samePorts ⟨rfl, rfl⟩ nofun

theorem setKeepOnBody_replied (p : Port) (r : Request) (s : State) : Replied p s (setKeepOnBody r s) := by
  unfold setKeepOnBody
  split
  · exact .of_samePorts ⟨rfl, rfl⟩ nofun
  · exact .unchanged nofun

theorem setQuotaBody_replied (p : Port) (r : Request) (s : State) : Replied p s (setQuotaBody r s) := by
  unfold setQuotaBody
  repeat' split
  all_goals try exact .unchanged nofun
  exact .of_samePorts ⟨rfl, rfl⟩ nofun

theorem setTickBody_replied (p : Port) (r : Request) (s : State) : Replied p s (setTickBody r s) := by
  unfold setTickBody
  dsimp only
  split
  · exact .of_samePorts ⟨rfl, rfl⟩ nofun
  · exact .unchanged nofun

theorem evictBody_replied (p : Port) (r : Request) (s : State) : Replied p s (evictBody r s) := by
  unfold evictBody
  split
  · exact .unchanged nofun
  · split <;> exact .of_samePorts (samePorts_relevel ..) nofun

theorem retireAllBody_replied (p : Port) (r : Request) (s : State) : Replied p s (retireAllBody r s) :=
  .of_samePorts (samePorts_relevel ..) nofun

theorem clearDomainFaultBody_replied (p : Port) (r : Request) (s : State) :
    Replied p s (clearDomainFaultBody r s) := by
  unfold clearDomainFaultBody
  repeat' split
  all_goals try exact .unchanged nofun
  exact .of_samePorts ⟨rfl, rfl⟩ nofun

end Sys2Proof.Machine


namespace Sys2Proof.Machine

/-! ### Every request command is answered (R26, R155 to R157) -/

/-- A request command serves the requests of its own code, by a body that replies. -/
theorem exec_request_replied {c : Instr} {code : Byte} (h : requestCode c = some code) :
    ∃ body : Port → Request → State → State × Answer,
      (∀ p r s, Replied p s (body p r s)) ∧ ∀ s, exec c s = .next (s.serve (· == code) body) := by
  cases c with
  | place => cases h; exact ⟨_, placeBody_replied, fun _ => rfl⟩
  | change => cases h; exact ⟨_, changeBody_replied, fun _ => rfl⟩
  | renew => cases h; exact ⟨_, renewBody_replied, fun _ => rfl⟩
  | release => cases h; exact ⟨_, releaseBody_replied, fun _ => rfl⟩
  | queryClaim => cases h; exact ⟨_, queryClaimBody_replied, fun _ => rfl⟩
  | queryModule => cases h; exact ⟨_, queryModuleBody_replied, fun _ => rfl⟩
  | queryDomain => cases h; exact ⟨_, queryDomainBody_replied, fun _ => rfl⟩
  | browse => cases h; exact ⟨_, browseBody_replied, fun _ => rfl⟩
  | browseNext => cases h; exact ⟨_, browseNextBody_replied, fun _ => rfl⟩
  | takeChange => cases h; exact ⟨_, takeChangeBody_replied, fun _ => rfl⟩
  | takeAlert => cases h; exact ⟨_, takeAlertBody_replied, fun _ => rfl⟩
  | setNotify => cases h; exact ⟨_, setNotifyBody_replied, fun _ => rfl⟩
  | restart => cases h; exact ⟨_, restartBody_replied, fun _ => rfl⟩
  | clearModuleFault => cases h; exact ⟨_, clearModuleFaultBody_replied, fun _ => rfl⟩
  | detach => cases h; exact ⟨_, detachBody_replied, fun _ => rfl⟩
  | setModule => cases h; exact ⟨_, controlOnly_replied setModuleBody_replied, fun _ => rfl⟩
  | setModuleTiming => cases h; exact ⟨_, controlOnly_replied setModuleTimingBody_replied, fun _ => rfl⟩
  | setDomain => cases h; exact ⟨_, controlOnly_replied setDomainBody_replied, fun _ => rfl⟩
  | setKeepOn => cases h; exact ⟨_, controlOnly_replied setKeepOnBody_replied, fun _ => rfl⟩
  | setQuota => cases h; exact ⟨_, controlOnly_replied setQuotaBody_replied, fun _ => rfl⟩
  | setTick => cases h; exact ⟨_, controlOnly_replied setTickBody_replied, fun _ => rfl⟩
  | evict => cases h; exact ⟨_, controlOnly_replied evictBody_replied, fun _ => rfl⟩
  | retireAll => cases h; exact ⟨_, controlOnly_replied retireAllBody_replied, fun _ => rfl⟩
  | clearDomainFault => cases h; exact ⟨_, controlOnly_replied clearDomainFaultBody_replied, fun _ => rfl⟩
  | _ => cases h

/-- A body's answer, written: the controller after the body's change of its alert set and notify enable, answered. -/
theorem Replied.answered {p : Port} {s : State} {r : Request} {u : State} {a : Answer}
    (h : Replied p (s.takeRequest p) (u, a)) :
    Answered s (u.writeAnswer p r.sequence a) p r a
      fun q => { q with alerts := u.ports[p].alerts, notify := u.ports[p].notify } := by
  obtain ⟨hlast, hothers, hown, -⟩ := h
  refine answered_writeAnswer hlast ?_ fun q hq => ?_
  · rw [hown, State.takeRequest_ports, modifyAt_get_self]
  · rw [hothers q hq, State.takeRequest_ports, modifyAt_get_ne _ _ hq]

/-- Settles O7: every body replies, and an answer written carries the marks and flags of the moment and clears the
marks. -/
theorem everyServedRequestIsAnswered : Obligations.EveryServedRequestIsAnswered := by
  unfold Obligations.EveryServedRequestIsAnswered
  intro c code s p r hc hs
  obtain ⟨body, hreplied, hexec⟩ := exec_request_replied hc
  have hbody := hreplied p r (s.takeRequest p)
  obtain ⟨hlast, hport, hothers⟩ := hbody.answered (r := r)
  refine ⟨_, hexec s, ?_⟩
  rw [serve_of_serving hs (accepts := (· == code)) (beq_self_eq_true code) (body := body) rfl, hport]
  obtain ⟨h4, h5, h6, h7⟩ := echoByte_flags r.sequence _ _ _ _
  exact ⟨hlast, hothers, rfl, rfl, rfl, rfl, statusCode_ne_waiting hbody.status, echoByte_sequence .., h4, h5, h6, h7⟩

end Sys2Proof.Machine


namespace Sys2Proof.Machine

/-! ### The ticks that wait (R48) -/

/-- The claim table has taken its tick, if one waited. -/
theorem State.ctTick_ticks (s : State) :
    (if s.ticks.ct then s.takeCtTick else s).ticks = { s.ticks with ct := false } := by
  split
  · simp [State.takeCtTick]
  · rename_i h
    rw [← Bool.eq_false_of_not_eq_true h]

/-- The demand resolver has taken its tick, if one waited. -/
theorem State.drTick_ticks (s : State) :
    (if s.ticks.dr then s.takeDrTick else s).ticks = { s.ticks with dr := false } := by
  split
  · simp [State.takeDrTick]
  · rename_i h
    rw [← Bool.eq_false_of_not_eq_true h]

/-- Engine `e` has taken its tick, if one waited. -/
theorem State.engineTick_ticks (s : State) (e : Domain) :
    (if s.ticks.eng[e] then s.takeEngineTick e else s).ticks = { s.ticks with eng := s.ticks.eng.set e false } := by
  split
  · exact State.takeEngineTick_ticks s e
  · rename_i h
    have hset : s.ticks.eng.set e false = s.ticks.eng := by
      rw [← Bool.eq_false_of_not_eq_true h]
      exact Vector.set_getElem_self ..
    rw [hset]

/-- The engines of `es` have taken their ticks, and the other users' ticks are as they were. -/
theorem State.engineTicks_ticks (es : List Domain) (s : State) :
    (es.foldl (fun s (e : Domain) => if s.ticks.eng[e] then s.takeEngineTick e else s) s).ticks =
      { s.ticks with eng := es.foldl (fun v (e : Domain) => v.set e false) s.ticks.eng } := by
  induction es generalizing s with
  | nil => rfl
  | cons e es ih => rw [List.foldl_cons, ih, State.engineTick_ticks]; rfl

theorem foldl_set_all_false (v : Vector Bool 4) :
    (List.finRange 4).foldl (fun v (e : Domain) => v.set e false) v = Vector.replicate 4 false := by
  ext i hi
  simp [List.finRange_succ, Vector.getElem_set]
  omega

/-- Once the ticks that wait are taken, none waits (R48). -/
@[simp] theorem State.takeWaitingTicks_ticks (s : State) : s.takeWaitingTicks.ticks = TickWaiting.reset := by
  unfold State.takeWaitingTicks
  dsimp only
  rw [State.engineTicks_ticks, State.drTick_ticks, State.ctTick_ticks, foldl_set_all_false]
  rfl

/-- Where no tick waits, none is taken. -/
theorem State.takeWaitingTicks_none {s : State} (h : s.ticks = TickWaiting.reset) : s.takeWaitingTicks = s := by
  have hct : s.ticks.ct = false := by rw [h]; rfl
  have hdr : s.ticks.dr = false := by rw [h]; rfl
  have heng (e : Domain) : s.ticks.eng[e] = false := by rw [h]; simp [TickWaiting.reset]
  unfold State.takeWaitingTicks
  simp only [hct, hdr, Bool.false_eq_true, if_false]
  exact foldl_keeps (· = s) _ (fun u e hu => by subst hu; simp only [heng, Bool.false_eq_true, if_false]) _ _ rfl

/-- With no tick waiting, the end of a period counts its last units and issues the tick (R46). -/
theorem State.endPeriod_none {s : State} (h : s.ticks = TickWaiting.reset) :
    s.endPeriod = (s.countUnits s.timebase.left).issueTick := by
  rw [State.endPeriod, State.takeWaitingTicks_none h]

/-- The end of a period has the ticks that wait taken first (R48). -/
theorem State.endPeriod_takeWaitingTicks (s : State) : s.takeWaitingTicks.endPeriod = s.endPeriod := by
  simp only [State.endPeriod, State.takeWaitingTicks_none (State.takeWaitingTicks_ticks s)]

/-! ### TICK, and the units that pass (R45, R46) -/

theorem exec_tick {s : State} (h : Running s) : exec .tick s = .next s.endPeriod :=
  congrArg Host.Outcome.next (State.awake_running _ h)

theorem left_pos_of_timebaseRight {s : State} (h : TimebaseRight s) : 0 < s.timebase.left := by
  obtain ⟨-, -, -, -, -, helapsed⟩ := h
  exact Nat.sub_pos_of_lt helapsed

theorem Timebase.advance_zero {t : Timebase} (h : t.usCount < Config.quarterUs) : t.advance 0 = t := by
  have hdiv : t.elapsed / Config.quarterUs = t.quarterCount := by
    rw [Timebase.elapsed, Nat.mul_comm, Nat.mul_add_div (by decide), Nat.div_eq_of_lt h, Nat.add_zero]
  have hmod : t.elapsed % Config.quarterUs = t.usCount := by
    rw [Timebase.elapsed, Nat.mul_add_mod', Nat.mod_eq_of_lt h]
  simp only [Timebase.advance, Nat.add_zero, hdiv, hmod]

/-- Counting no unit changes nothing. -/
theorem State.countUnits_zero {s : State} (h : TimebaseRight s) : s.countUnits 0 = s := by
  obtain ⟨-, -, -, -, hus, -⟩ := h
  have hrecs : (s.countUnits 0).engines.recs = s.engines.recs := by
    apply Vector.ext
    intro i hi
    have := State.countUnits_rec s 0 ⟨i, hi⟩
    simpa using this
  have hengines : (s.countUnits 0).engines = { s.engines with recs := (s.countUnits 0).engines.recs } := rfl
  have hstate : s.countUnits 0 =
      { s with engines := (s.countUnits 0).engines, timebase := s.timebase.advance 0 } := rfl
  rw [hstate, hengines, hrecs, Timebase.advance_zero hus]

theorem State.passUnits_zero {fuel : Nat} {s : State} (h : TimebaseRight s) : State.passUnits fuel 0 s = s := by
  cases fuel with
  | zero => rfl
  | succ fuel => rw [State.passUnits, if_pos (left_pos_of_timebaseRight h), State.countUnits_zero h]

/-- Each period holds at least one unit, so fuel for every unit is fuel enough. -/
theorem State.passUnits_eq_of_le {f g d : Nat} {s : State} (hf : d ≤ f) (hg : d ≤ g) (h : TimebaseRight s) :
    State.passUnits f d s = State.passUnits g d s := by
  induction f generalizing g d s with
  | zero => rw [Nat.le_zero.1 hf, State.passUnits_zero h, State.passUnits_zero h]
  | succ f ih =>
    cases g with
    | zero => rw [Nat.le_zero.1 hg, State.passUnits_zero h, State.passUnits_zero h]
    | succ g =>
      have hleft := left_pos_of_timebaseRight h
      rw [State.passUnits, State.passUnits]
      split
      · rfl
      · exact ih (by omega) (by omega) ((passed_endPeriod s).timebase h)

/-- Units that do not reach the end of the period are counted, be there none of them (R46). -/
theorem State.elapse_counts {s : State} {d : Nat} (hd : d < s.timebase.left) (h : TimebaseRight s) :
    s.elapse d = s.countUnits d := by
  rcases Nat.eq_zero_or_pos d with rfl | hpos
  · rw [State.elapse_zero, State.countUnits_zero h]
  · exact State.elapse_within hpos hd

/-- Units that reach the end of the period bring its tick there, and the rest pass in the next period (R46). -/
theorem State.elapse_past {s : State} {d : Nat} (h : TimebaseRight s) (hd : s.timebase.left ≤ d) :
    s.elapse d = s.endPeriod.elapse (d - s.timebase.left) := by
  have hleft := left_pos_of_timebaseRight h
  obtain ⟨n, rfl⟩ : ∃ n, d = n + 1 := ⟨d - 1, by omega⟩
  rw [State.elapse, State.passUnits, if_neg (not_lt.2 hd)]
  exact State.passUnits_eq_of_le (by omega) le_rfl ((passed_endPeriod s).timebase h)

/-! ### SET TICK and its hand-over (R47) -/

theorem byteOf_toNat (b : Byte) : byteOf b.toNat = b := by rw [byteOf, BitVec.ofNat_toNat, BitVec.setWidth_eq]

/-- SET TICK with a divider that fits: the claim table keeps it and hands it over. -/
theorem setTickBody_sets {r : Request} (h1 : 1 ≤ (r.byte 2).toNat) (h64 : (r.byte 2).toNat ≤ 64) (s : State) :
    setTickBody r s =
      ((s.onCt fun ct => { ct with divider := (r.byte 2).toNat }).onLinks fun l =>
          { l with dividers := l.dividers ++ [(r.byte 2).toNat] },
        { status := .ok, b2 := r.byte 2, b3 := byteOf s.ct.divider }) := by
  simp only [setTickBody, if_pos (And.intro h1 h64), byteOf_toNat]

/-- SET TICK with another divider is refused. -/
theorem setTickBody_refused {r : Request} (h : (r.byte 2).toNat = 0 ∨ 64 < (r.byte 2).toNat) (s : State) :
    setTickBody r s = (s, .refused .badArgument) := by
  simp only [setTickBody, if_neg (show ¬(1 ≤ (r.byte 2).toNat ∧ (r.byte 2).toNat ≤ 64) by omega)]

/-- The hand-over sets TICKDIV, and the period in progress keeps its length. -/
theorem exec_setTickHandover {s : State} {n : Nat} {rest : List Nat} (hrun : Running s)
    (hdiv : s.links.dividers = n :: rest) :
    exec .setTickHandover s = .next { s with
      links := { s.links with dividers := rest }
      timebase := { s.timebase with tickDiv := n } } := by
  change execSetTickHandover s = _
  rw [execSetTickHandover, State.awake_running _ hrun]
  simp only [hdiv]
  rfl

/-- Settles O29: SET TICK by the two branches of its body, TICK as the end of the period with no tick left to take, and
units past the end of a period by the end of it and the units that are left. -/
theorem theDividerSetsTheNextPeriod : Obligations.TheDividerSetsTheNextPeriod := by
  unfold Obligations.TheDividerSetsTheNextPeriod
  refine ⟨fun s r hs => ?_, fun s n rest hrun hdiv => ?_, fun s hrun hticks => ?_, fun s d hd htb => ?_,
    fun s t d hrun htb hd ht => ?_, fun s hrun => ?_⟩
  · by_cases hfit : 1 ≤ (r.byte 2).toNat ∧ (r.byte 2).toNat ≤ 64
    · obtain ⟨h1, h64⟩ := hfit
      refine ⟨_, rfl, ?_⟩
      rw [serve_of_serving hs (accepts := (· == codeSetTick)) rfl (body := controlOnly setTickBody)
        (setTickBody_sets h1 h64 _)]
      exact ⟨⟨rfl, rfl, rfl, rfl, rfl, rfl, rfl⟩, fun _ _ => ⟨rfl, rfl, answered_of_taken rfl rfl⟩,
        fun hbad => absurd hbad (by omega)⟩
    · obtain ⟨hct, hlinks, hblocks, hans⟩ :=
        served_unchanged hs (accepts := (· == codeSetTick)) rfl (body := controlOnly setTickBody)
          (setTickBody_refused (by omega) _)
      exact ⟨_, rfl, hblocks, fun h1 h64 => absurd ⟨h1, h64⟩ hfit, fun _ => ⟨hct, hlinks, hans⟩⟩
  · exact exec_setTickHandover hrun hdiv
  · refine ⟨_, exec_tick hrun, State.endPeriod_timebase s, rfl, rfl, fun e => by simp, ?_⟩
    rw [State.endPeriod_none hticks]
    exact ⟨State.countUnits_rec s _, rfl, rfl, rfl, rfl, rfl, rfl, ⟨rfl, rfl⟩, rfl, hrun.1, rfl⟩
  · rw [State.elapse_counts hd htb]
    exact ⟨Timebase.advance_elapsed .., rfl, rfl, rfl⟩
  · cases (exec_tick hrun).symm.trans ht
    exact State.elapse_past htb hd
  · obtain ⟨-, -, hpins, hreset, -, -⟩ := timeOnly_takeWaitingTicks s
    have hrun' : Running s.takeWaitingTicks := ⟨hreset.trans hrun.1, (congrArg Pins.refclk hpins).trans hrun.2⟩
    refine ⟨?_, hrun'.1, State.takeWaitingTicks_ticks s⟩
    rw [exec_tick hrun, exec_tick hrun', State.endPeriod_takeWaitingTicks]

end Sys2Proof.Machine


namespace Sys2Proof.Machine

/-! ### The tick at an engine, and the linger count (R104, R106, R107) -/

/-- LINGER_TICK where the tick waits. -/
theorem exec_lingerTick {s : State} {e : Domain} (h : Running s) (ht : s.ticks.eng[e] = true) :
    exec (.lingerTick e) s = .next (s.takeEngineTick e) := by
  change execLingerTick e s = _
  rw [execLingerTick, State.awake_running _ h, if_pos ht]

/-- LINGER_RUNS_OUT where the tick waits and the count stands at 1: the same tick. -/
theorem exec_lingerRunsOut {s : State} {x : SwDom} (h : Running s) (ht : s.ticks.eng[x.domain] = true)
    (hs : s.engines.doms[x].state = .linger) (hc : s.engines.doms[x].lingerCount = some 1) :
    exec (.lingerRunsOut x) s = .next (s.takeEngineTick x.domain) := by
  change execLingerRunsOut x s = _
  rw [execLingerRunsOut, State.awake_running _ h, if_pos (by simp only [ht, hs, hc, decide_true, Bool.and_self])]

/-- The tick at engine `e` is taken, and nothing else has happened yet. -/
def State.tickTaken (s : State) (e : Domain) : State := s.onTicks fun t => { t with eng := t.eng.set e false }

/-- With no linger count running the tick is taken, and that is all (R104). -/
theorem State.takeEngineTick_idle {s : State} {e : Domain}
    (h : ∀ x : SwDom, x.domain = e → s.engines.doms[x].lingerCount = none) : s.takeEngineTick e = s.tickTaken e := by
  unfold State.takeEngineTick
  dsimp only
  split
  · rfl
  · rename_i x hx
    rw [State.onTicks_engines, h x (switchedOf_eq_some.1 hx)]
    rfl

section
variable {s : State} {x : SwDom}

/-- A count of 2 or more falls by one (R104). -/
theorem State.takeEngineTick_lowers {n : Nat} (hs : s.engines.doms[x].state = .linger)
    (hc : s.engines.doms[x].lingerCount = some n) (hn : 2 ≤ n) :
    s.takeEngineTick x.domain = (s.tickTaken x.domain).onDom x fun r => { r with lingerCount := some (n - 1) } := by
  simp only [State.takeEngineTick, switchedOf_domain, State.onTicks_engines, hc, hs, if_true,
    if_neg (show ¬n ≤ 1 by omega)]
  rfl

/-- A count of 1 runs out: RAMP_DOWN begins in the tick's event (R104, R106). -/
theorem State.takeEngineTick_runsOut (hs : s.engines.doms[x].state = .linger)
    (hc : s.engines.doms[x].lingerCount = some 1) :
    s.takeEngineTick x.domain = ((s.tickTaken x.domain).beginRampDown x).settleEngine x.domain := by
  simp only [State.takeEngineTick, switchedOf_domain, State.onTicks_engines, hc, hs, if_true, le_refl]
  rfl

/-- LINGER_TICK and LINGER_RUNS_OUT at a count of 1 (R104). -/
theorem exec_lingerOut {i : Instr} (hrun : Running s) (ht : s.ticks.eng[x.domain] = true)
    (hs : s.engines.doms[x].state = .linger) (hc : s.engines.doms[x].lingerCount = some 1)
    (hi : i = .lingerTick x.domain ∨ i = .lingerRunsOut x) :
    exec i s = .next (((s.tickTaken x.domain).beginRampDown x).settleEngine x.domain) := by
  rw [← State.takeEngineTick_runsOut hs hc]
  rcases hi with rfl | rfl
  · exact exec_lingerTick hrun ht
  · exact exec_lingerRunsOut hrun ht hs hc

/-- RAMP_DOWN begins with DPG high: switch off, isolation on, and the off timeout runs (R106). -/
theorem State.beginRampDown_waits (hp : s.pins.dpg[x] = true) :
    s.beginRampDown x =
      { s with
        engines := { s.engines with
          doms := s.engines.doms.set x
            { s.engines.doms[x] with state := .rampDown, dsw := false, isoReleased := false, lingerCount := none }
          recs := s.engines.recs.set x.domain
            { s.engines.recs[x.domain] with
              work := .ramp, timer := some (10 * s.engines.doms[x].offTimeout) } } } := by
  rw [State.beginRampDown, if_pos hp, Nat.mul_comm 10]
  rfl

/-- RAMP_DOWN begins with DPG low already: it completes to OFF at its begin (R107). -/
theorem State.beginRampDown_completes (hp : s.pins.dpg[x] = false) :
    s.beginRampDown x =
      { s with
        engines := { s.engines with
          doms := s.engines.doms.set x
            { s.engines.doms[x] with state := .off, dsw := false, isoReleased := false, lingerCount := none }
          recs := s.engines.recs.set x.domain
            { s.engines.recs[x.domain] with work := .idle, timer := none } } } := by
  rw [State.beginRampDown, if_neg (by rw [hp]; exact Bool.false_ne_true)]
  simp [State.completeRampDown, State.onDom, State.onRec, State.onEngines, modifyAt]

end

/-- Settles O51: the linger count at the tick, and what the begin of RAMP_DOWN does by the level of DPG; a ramp in
flight leaves the engine nothing to consider. -/
theorem theTickCountsTheLinger : Obligations.TheTickCountsTheLinger := by
  unfold Obligations.TheTickCountsTheLinger
  refine ⟨fun s x n hrun ht hs hc hn => ?_, fun s x i hrun ht hs hc hp hi => ?_, fun s x i hrun ht hs hc hp hi => ?_,
    fun s e hrun ht hc => ?_⟩
  · rw [exec_lingerTick hrun ht, State.takeEngineTick_lowers hs hc hn]
    rfl
  · have hbusy : ((s.tickTaken x.domain).beginRampDown x).engines.recs[x.domain].work ≠ .idle := by
      rw [State.beginRampDown_waits (s := s.tickTaken x.domain) hp]
      simp
    rw [exec_lingerOut hrun ht hs hc hi, State.settleEngine_still (State.engineMove_busy hbusy),
      State.beginRampDown_waits (s := s.tickTaken x.domain) hp]
    rfl
  · rw [exec_lingerOut hrun ht hs hc hi, State.beginRampDown_completes (s := s.tickTaken x.domain) hp]
    rfl
  · rw [exec_lingerTick hrun ht, State.takeEngineTick_idle hc]
    rfl

end Sys2Proof.Machine


namespace Sys2Proof.Machine

/-! ### With no command waiting (R45, R46) -/

theorem step_of_empty {s : State} (h : s.pending = []) : step s = .next s.idle := by rw [step, h]

section
variable {s : State} (ha : s.pins.refclkAhead = []) (hrun : Running s)
include ha hrun

/-- The oldest waiting edge is taken, with the edges after it still waiting. -/
theorem State.idle_edge {g : Edge} {rest : List Edge} (he : s.pins.edges = g :: rest) :
    s.idle = ({ s with pins := { s.pins with edges := rest } } : State).takeEdge g := by
  simp only [State.idle, ha, State.awake_running _ hrun, he, State.takeWaiting, State.onPins, List.erase_cons_head]

/-- With no edge waiting one µs unit passes. -/
theorem State.idle_unit (he : s.pins.edges = []) : s.idle = s.elapse 1 := by
  simp only [State.idle, ha, State.awake_running _ hrun, he]

end

/-- The unit that ends the period is TICK. -/
theorem State.elapse_one_ends {s : State} (h : s.timebase.left ≤ 1) : s.elapse 1 = s.endPeriod := by
  rw [State.elapse, State.passUnits, if_neg (not_lt.2 h)]
  rfl

/-! ### Edges while REFCLK stands still (R45) -/

theorem exec_edge_command (g : Edge) (s : State) : exec g.command s = .next ((s.drive g).takeEdges g.pin) := by
  obtain ⟨p, up⟩ := g
  cases p with
  | mrdy m => cases up <;> rfl
  | mwake m => cases up <;> rfl
  | dpg x => cases up <;> rfl

@[simp] theorem Pins.put_refclk (q : Pins) (up : Bool) (p : Pin) : (q.put up p).refclk = q.refclk := by
  cases p <;> rfl

@[simp] theorem Pins.put_edges (q : Pins) (up : Bool) (p : Pin) : (q.put up p).edges = q.edges := by
  cases p <;> rfl

theorem Pins.level_put (q : Pins) (up : Bool) (p : Pin) (l : List Edge) :
    ({ q.put up p with edges := l } : Pins).level p = up := by
  cases p <;> simp [Pins.level, Pins.put]

theorem State.drive_level {s : State} {g : Edge} (h : s.pins.level g.pin = g.up) : s.drive g = s := if_pos h

/-- Outside device reset a pin that changes has its edge wait. -/
theorem State.drive_changes {s : State} {g : Edge} (hr : s.inReset = false) (h : s.pins.level g.pin ≠ g.up) :
    s.drive g = { s with pins := { s.pins.put g.up g.pin with edges := s.pins.edges ++ [g] } } := by
  rw [State.drive, if_neg h, State.onPins, hr]
  rfl

/-- Driving a pin does not move REFCLK. -/
theorem State.drive_refclk (s : State) (g : Edge) : (s.drive g).pins.refclk = s.pins.refclk := by
  unfold State.drive
  split
  · rfl
  · exact Pins.put_refclk ..

/-- Settles O2: what an empty queue does, by REFCLK, the waiting edges and the units left in the period; and an edge
waits as a driven pin leaves it, so that taking it later is taking it then. -/
theorem idleStepPassesOneUnit : Obligations.IdleStepPassesOneUnit := by
  unfold Obligations.IdleStepPassesOneUnit
  refine ⟨fun s b rest hq ha => ?_, fun s hq ha hstill => ?_, fun s g rest hq hrun ha he => ?_,
    fun s hq hrun ha he => ?_, fun s c _ hclk hc => ?_, fun s g hr hclk => ?_, fun s g hrun _ hl => ?_⟩
  · rw [step_of_empty hq, State.idle, ha]
    rfl
  · rw [step_of_empty hq, State.idle, ha]
    rcases hstill with hr | hclk
    · exact congrArg _ (State.awake_inReset _ hr)
    · exact congrArg _ (State.awake_standing _ hclk)
  · rw [step_of_empty hq, State.idle_edge ha hrun he]
  · rw [step_of_empty hq, State.idle_unit ha hrun he]
    refine ⟨fun hend => ?_, fun hmore => ?_⟩
    · have hleft : s.timebase.left ≤ 1 := Nat.sub_le_iff_le_add'.2 hend
      rw [exec_tick hrun, State.elapse_one_ends hleft]
    · have hleft : 1 < s.timebase.left := Nat.lt_sub_iff_add_lt'.2 hmore
      refine ⟨_, rfl, ?_⟩
      rw [State.elapse_within Nat.one_pos hleft]
      exact ⟨Timebase.advance_elapsed .., Timebase.advance_usCount_lt .., rfl, rfl, State.countUnits_rec s 1, rfl, rfl,
        rfl, rfl, rfl, rfl, rfl, ⟨rfl, rfl⟩, rfl, hrun.1, hq⟩
  · exact exec_standing (by simp only [State.isRunning, hclk, Bool.and_false]) hc
  · rw [exec_edge_command, State.takeEdges, State.awake_standing _ ((State.drive_refclk s g).trans hclk)]
    split
    · rw [State.drive_level ‹_›]
    · rw [State.drive_changes hr ‹_›]
  · rw [exec_edge_command, exec_edge_command, State.drive_changes hrun.1 hl, State.drive_level (Pins.level_put ..)]

end Sys2Proof.Machine


namespace Sys2Proof.Machine

/-! ### What every write of an engine keeps, every operation of an engine keeps (chapters 5, 6, 8 and 9) -/

/-- A condition that survives every write an engine makes: to the record of a module, of an engine or of a domain, and
into a stream of notices or alerts. -/
structure EngineKept (P : State → Prop) : Prop where
  onMod {s : State} (m : Module) (f : ModRec → ModRec) : P s → P (s.onMod m f)
  onRec {s : State} (e : Domain) (f : EngineRec → EngineRec) : P s → P (s.onRec e f)
  onDom {s : State} (x : SwDom) (f : DomRec → DomRec) : P s → P (s.onDom x f)
  noticeCt {s : State} (e : Domain) (n : CtNotice) : P s → P (s.noticeCt e n)
  noticeDr {s : State} (e : Domain) (n : DrNotice) : P s → P (s.noticeDr e n)
  alert {s : State} (p : Port) (j : Subject) (r : Reason) : P s → P (s.alert p j r)

namespace EngineKept

variable {P : State → Prop} (k : EngineKept P) {s : State}
include k

/-! #### Steps and paths -/

theorem noticeChange (e : Domain) (m : Module) (old new : ModRec) (hs : P s) : P (s.noticeChange e m old new) := by
  unfold State.noticeChange
  dsimp only
  have h : P (if old.level = new.level then s else s.noticeCt e (.level m new.level new.gen)) := by
    split
    · exact hs
    · exact k.noticeCt _ _ hs
  split
  · exact h
  · exact k.noticeDr _ _ h

theorem appendEntry (e : Domain) (en : Entry) (hs : P s) : P (s.appendEntry e en) := k.onRec _ _ hs

theorem compareWanted (e : Domain) (m : Module) (hs : P s) : P (s.compareWanted e m) := by
  unfold State.compareWanted
  dsimp only
  split
  · exact hs
  · exact k.onMod _ _ (k.appendEntry _ _ hs)

theorem beginStep (e : Domain) (m : Module) (st : LineStep) (hs : P s) : P (s.beginStep e m st) :=
  k.onRec _ _ (k.onMod _ _ hs)

theorem completeStep (e : Domain) (m : Module) (st : LineStep) (t : Target) (last : Bool) (hs : P s) :
    P (s.completeStep e m st t last) := k.noticeChange _ _ _ _ (k.onMod _ _ (k.onRec _ _ hs))

theorem endTransition (e : Domain) (m : Module) (restart : Option Port) (hs : P s) :
    P (s.endTransition e m restart) := by
  cases restart with
  | none => exact k.compareWanted _ _ (k.onRec _ _ (k.onMod _ _ hs))
  | some p => exact k.compareWanted _ _ (k.onRec _ _ (k.onMod _ _ (k.alert _ _ _ (k.noticeCt _ _ hs))))

theorem runSteps (e : Domain) (m : Module) (t : Target) (restart : Option Port) (steps : List LineStep) (hs : P s) :
    P (State.runSteps e m t restart steps s) := by
  induction steps generalizing s with
  | nil => exact k.endTransition _ _ _ hs
  | cons st rest ih =>
    unfold State.runSteps
    dsimp only
    split
    · exact ih (k.completeStep _ _ _ _ _ (k.beginStep _ _ _ hs))
    · exact k.onRec _ _ (k.beginStep _ _ _ hs)

theorem finishStep (e : Domain) (t : Transition) (hs : P s) : P (s.finishStep e t) := by
  unfold State.finishStep
  split
  · exact k.endTransition _ _ _ hs
  · exact k.runSteps _ _ _ _ _ (k.completeStep _ _ _ _ _ hs)

theorem startPath (e : Domain) (m : Module) (t : Target) (restart : Option Port) (steps : List LineStep) (hs : P s) :
    P (s.startPath e m t restart steps) := k.runSteps _ _ _ _ _ (k.onMod _ _ hs)

/-! #### Entries, restarts, ramps -/

theorem failRestart (e : Domain) (m : Module) (p : Port) (hs : P s) : P (s.failRestart e m p) :=
  k.alert _ _ _ (k.noticeCt _ _ hs)

theorem takeRestart (e : Domain) (m : Module) (t : Target) (p : Port) (hs : P s) : P (s.takeRestart e m t p) := by
  unfold State.takeRestart
  split
  · exact k.startPath _ _ _ _ _ (k.noticeCt _ _ hs)
  · dsimp only
    split
    · exact k.failRestart _ _ _ hs
    · exact k.appendEntry _ _ (k.failRestart _ _ _ hs)

theorem flagOnly (e : Domain) (m : Module) (t : Target) (hs : P s) : P (s.flagOnly e m t) :=
  k.compareWanted _ _ (k.noticeChange _ _ _ _ (k.onMod _ _ hs))

theorem leaveLinger (e : Domain) (hs : P s) : P (s.leaveLinger e) := by
  unfold State.leaveLinger
  split
  · exact hs
  · exact k.onDom _ _ hs

theorem takeEntry (e : Domain) (en : Entry) (hs : P s) : P (s.takeEntry e en) := by
  unfold State.takeEntry
  dsimp only
  split
  · exact k.takeRestart _ _ _ _ (k.onRec _ _ hs)
  · split
    · exact k.startPath _ _ _ _ _ (k.leaveLinger _ (k.onRec _ _ hs))
    · exact k.startPath _ _ _ _ _ (k.onRec _ _ hs)
    · exact k.flagOnly _ _ _ (k.onRec _ _ hs)
    · exact k.onRec _ _ hs

theorem completeRampUp (x : SwDom) (hs : P s) : P (s.completeRampUp x) := k.onRec _ _ (k.onDom _ _ hs)

theorem completeRampDown (x : SwDom) (hs : P s) : P (s.completeRampDown x) := k.onRec _ _ (k.onDom _ _ hs)

theorem beginRampUp (x : SwDom) (hs : P s) : P (s.beginRampUp x) := by
  unfold State.beginRampUp
  dsimp only
  split
  · exact k.completeRampUp _ (k.onRec _ _ (k.onDom _ _ hs))
  · exact k.onRec _ _ (k.onDom _ _ hs)

theorem beginRampDown (x : SwDom) (hs : P s) : P (s.beginRampDown x) := by
  unfold State.beginRampDown
  dsimp only
  split
  · exact k.onRec _ _ (k.onDom _ _ hs)
  · exact k.completeRampDown _ (k.onRec _ _ (k.onDom _ _ hs))

theorem leaveOn (x : SwDom) (hs : P s) : P (s.leaveOn x) := by
  unfold State.leaveOn
  dsimp only
  split
  · exact k.beginRampDown _ hs
  · exact k.onDom _ _ hs

theorem settleEngine (e : Domain) (hs : P s) : P (s.settleEngine e) := by
  refine State.settleEngine_keeps P e s (fun u v hu h => ?_) hs
  obtain ⟨_, ⟨x, _, _, rfl⟩ | ⟨en, _, _, rfl⟩ | ⟨x, _, _, rfl⟩⟩ := State.engineMove_cases h
  · exact k.beginRampUp _ hu
  · exact k.takeEntry _ _ hu
  · exact k.leaveOn _ hu

/-! #### Faults and their release -/

theorem alertFault (m : Module) (hs : P s) : P (s.alertFault m) := by
  unfold State.alertFault
  dsimp only
  split
  · exact k.alert _ _ _ hs
  · exact k.alert _ _ _ (k.alert _ _ _ hs)

theorem faultModule (e : Domain) (m : Module) (c : ModCause) (hs : P s) : P (s.faultModule e m c) := by
  have h (f : EngineRec → EngineRec) :=
    k.alertFault m (k.noticeDr e (.fault m c) (k.noticeCt e (.fault m c) (k.onRec e f (k.onMod m (·.faulted c) hs))))
  unfold State.faultModule
  dsimp only
  split
  · exact h _
  · exact k.failRestart _ _ _ (h _)

theorem faultDomain (x : SwDom) (c : DomCause) (hs : P s) : P (s.faultDomain x c) := by
  unfold State.faultDomain
  dsimp only
  refine k.alert _ _ _ (k.onRec _ _ (foldl_keeps P _ (fun u m hu => ?_) _ _ (k.onRec _ _ (k.onDom _ _ hs))))
  split
  · exact k.faultModule _ _ _ hu
  · exact hu

theorem releaseModule (e : Domain) (m : Module) (hs : P s) : P (s.releaseModule e m) := by
  unfold State.releaseModule
  split
  · exact k.onMod _ _ hs
  · exact k.noticeDr _ _ (k.noticeCt _ _ (k.onMod _ _ hs))

theorem releaseDomainModules (x : SwDom) (hs : P s) : P (s.releaseDomainModules x) :=
  foldl_keeps P _ (fun u m hu => by
    split
    · exact k.releaseModule _ _ hu
    · exact hu) _ _ hs

/-! #### Postings taken at an engine -/

theorem queueTarget (e : Domain) (m : Module) (t : Target) (hs : P s) : P (s.queueTarget e m t) := by
  unfold State.queueTarget
  dsimp only
  split
  · exact k.onRec _ _ hs
  · split
    · exact hs
    · exact k.appendEntry _ _ hs

theorem takeTarget (e : Domain) (m : Module) (t : Target) (hs : P s) : P (s.takeTarget e m t) := by
  unfold State.takeTarget
  split
  · dsimp only
    split
    · exact k.onMod _ _ hs
    · exact k.queueTarget _ _ _ (k.onMod _ _ hs)
  · exact hs

theorem takeRestartPosting (e : Domain) (m : Module) (p : Port) (hs : P s) : P (s.takeRestartPosting e m p) := by
  unfold State.takeRestartPosting
  split
  · split
    · exact k.failRestart _ _ _ hs
    · split
      · exact k.onMod _ _ hs
      · split
        · exact k.onRec _ _ hs
        · exact k.appendEntry _ _ hs
  · exact hs

theorem letGo (e : Domain) (m : Module) (hs : P s) : P (s.letGo e m) := k.onRec _ _ hs

/-- A SET MODULE hand-over at the engines: once the record is written, the engines make their own writes only (R74). -/
theorem takeModule (m : Module) (r : DirRecord) (hs : P (s.onEngines fun g => { g with dir := g.dir.set m r })) :
    P (s.takeModule m r) := by
  have onlyIf {u v : State} (p : Prop) [Decidable p] (hu : P u) (hv : P u → P v) : P (if p then v else u) := by
    split
    · exact hv hu
    · exact hu
  have quieted {u : State} (hu : P u) : P ((u.letGo (s.engineDir m).domain m).onMod m (·.quieted)) :=
    k.onMod _ _ (k.letGo _ _ hu)
  unfold State.takeModule
  dsimp only
  refine k.settleEngine _ (k.settleEngine _ (onlyIf _ (onlyIf _ ?_ (k.onMod _ _)) (k.faultModule _ _ _)))
  split
  · exact quieted hs
  · exact onlyIf _ hs quieted

/-! #### The tick and the edges of MRDY and DPG -/

theorem takeEngineTick (e : Domain) (hs : P (s.onTicks fun t => { t with eng := t.eng.set e false })) :
    P (s.takeEngineTick e) := by
  unfold State.takeEngineTick
  dsimp only
  split
  · exact hs
  · split
    · exact hs
    · split
      · split
        · exact k.settleEngine _ (k.beginRampDown _ hs)
        · exact k.onDom _ _ hs
      · exact hs

theorem takeReadyRise (m : Module) (hs : P s) : P (s.takeReadyRise m) := by
  unfold State.takeReadyRise
  dsimp only
  split
  · exact hs
  · split
    · exact k.settleEngine _ (k.finishStep _ _ hs)
    · exact hs

theorem takeReadyFall (m : Module) (hs : P s) : P (s.takeReadyFall m) := by
  unfold State.takeReadyFall
  dsimp only
  split
  · split
    · exact k.settleEngine _ (k.finishStep _ _ hs)
    · split
      · exact k.settleEngine _ (k.faultModule _ _ _ hs)
      · exact hs
  · exact hs

theorem takePowerRise (x : SwDom) (hs : P s) : P (s.takePowerRise x) := by
  unfold State.takePowerRise
  split
  · exact k.settleEngine _ (k.completeRampUp _ hs)
  · exact hs

theorem takePowerFall (x : SwDom) (hs : P s) : P (s.takePowerFall x) := by
  unfold State.takePowerFall
  split
  · exact k.settleEngine _ (k.completeRampDown _ hs)
  · exact k.settleEngine _ (k.faultDomain _ _ hs)
  · exact k.settleEngine _ (k.faultDomain _ _ hs)
  all_goals exact hs

end EngineKept

end Sys2Proof.Machine


namespace Sys2Proof.Machine

/-! ### What the demand resolver works out: the only values that agree (R58, R61, R120) -/

/-- A table in which every value is the one that the values at higher indices give is the table filled downwards. -/
theorem fillDown_unique {α : Type} {g : Vector α 32 → Module → α} {v x : Vector α 32}
    (hg : ∀ (a b : Vector α 32) (m : Module), (∀ u : Module, m < u → a[u] = b[u]) → g a m = g b m)
    (hx : ∀ m : Module, x[m] = g x m) :
    allModules.foldr (fun (m : Module) (acc : Vector α 32) => acc.set m (g acc m)) v = x := by
  have hget (m : Module) :
      (allModules.foldr (fun (m : Module) (acc : Vector α 32) => acc.set m (g acc m)) v)[m] = x[m] := by
    induction m using WellFounded.induction (wellFounded_gt (α := Module)) with
    | h m ih =>
      rw [fillDown_get g v hg m, hx m]
      exact hg _ _ m ih
  exact Vector.ext fun i hi => hget ⟨i, hi⟩

/-- Every record of the resolver's directory names a supplier of lower index only (R58). -/
abbrev Dr.Ordered (d : Dr) : Prop := ∀ m : Module, supplierBelow m d.dir[m]

/-- A module that is not watched has neither a wake request nor an idle count (R116). -/
abbrev Dr.WakeKept (d : Dr) : Prop := ∀ m : Module, d.watched[m] = false → d.wakeReq[m] = false ∧ d.idle[m] = none

section
variable {d : Dr} (ho : d.Ordered)
include ho

/-- The level of a module turns on its dependents' levels only, and these have higher indices (R58, R61). -/
theorem Dr.level_congr (a b : Vector Level 32) (m : Module) (h : ∀ u : Module, m < u → a[u] = b[u]) :
    (if d.demands m then max d.claimed[m] (highest ((dependentsIn d.dir m).map fun u => a[u])) else 0) =
      if d.demands m then max d.claimed[m] (highest ((dependentsIn d.dir m).map fun u => b[u])) else 0 := by
  rw [List.map_congr_left fun u hu => h u (lt_of_mem_dependentsIn ho hu)]

/-- The wake need of a module turns on its dependents' needs only (R58, R120). -/
theorem Dr.wake_congr (a b : Vector Bool 32) (m : Module) (h : ∀ u : Module, m < u → a[u] = b[u]) :
    (decide (d.eff[m] = 2) &&
        (d.wakeReq[m] || d.idle[m].isSome || (dependentsIn d.dir m).any fun u => d.views[u].woken || a[u])) =
      (decide (d.eff[m] = 2) &&
        (d.wakeReq[m] || d.idle[m].isSome || (dependentsIn d.dir m).any fun u => d.views[u].woken || b[u])) := by
  have hany : ((dependentsIn d.dir m).any fun u => d.views[u].woken || a[u]) =
      (dependentsIn d.dir m).any fun u => d.views[u].woken || b[u] := by
    rw [Bool.eq_iff_iff, List.any_eq_true, List.any_eq_true]
    exact exists_congr fun u => and_congr_right fun hu => by rw [h u (lt_of_mem_dependentsIn ho hu)]
  rw [hany]

theorem Dr.worked_get (m : Module) :
    d.worked[m] =
      if d.demands m then max d.claimed[m] (highest ((dependentsIn d.dir m).map fun u => d.worked[u])) else 0 := by
  unfold Dr.worked
  exact fillDown_get (fun acc m =>
    if d.demands m then max d.claimed[m] (highest ((dependentsIn d.dir m).map fun u => acc[u])) else 0) _
    (Dr.level_congr ho) m

theorem Dr.worked_eq (h : ∀ m : Module, d.eff[m] = d.dueLevel m) : d.worked = d.eff := by
  unfold Dr.worked
  exact fillDown_unique (Dr.level_congr ho) h

theorem Dr.wakeNeeds_get (m : Module) :
    d.wakeNeeds[m] =
      (decide (d.eff[m] = 2) &&
        (d.wakeReq[m] || d.idle[m].isSome ||
          (dependentsIn d.dir m).any fun u => d.views[u].woken || d.wakeNeeds[u])) := by
  unfold Dr.wakeNeeds
  exact fillDown_get (fun acc m =>
    decide (d.eff[m] = 2) &&
      (d.wakeReq[m] || d.idle[m].isSome || (dependentsIn d.dir m).any fun u => d.views[u].woken || acc[u])) _
    (Dr.wake_congr ho) m

theorem Dr.wakeNeeds_eq (h : ∀ m : Module, d.wakeNeed[m] = d.dueWake m) : d.wakeNeeds = d.wakeNeed := by
  unfold Dr.wakeNeeds
  exact fillDown_unique (Dr.wake_congr ho) h

end

/-! ### The demand resolver after an event (R61, R65, R68, R116, R120) -/

/-- The demand resolver with everything worked out, and what was owed recorded as posted. -/
def Dr.reworked (d : Dr) (mwake : Vector Bool 32) : Dr := (d.workOut mwake).recordPosted

theorem State.finishDr_reworked (s : State) (ns : List (Domain × DrPosting)) :
    (s.finishDr ns).dr = s.dr.reworked s.pins.mwake := State.finishDr_dr s ns

section
variable (d : Dr) (w : Vector Bool 32)

@[simp] theorem Dr.reworked_dir : (d.reworked w).dir = d.dir := by
  simp only [Dr.reworked, Dr.recordPosted, Dr.workOut_keeps]

@[simp] theorem Dr.reworked_views : (d.reworked w).views = d.views := by
  simp only [Dr.reworked, Dr.recordPosted, Dr.workOut_keeps]

@[simp] theorem Dr.reworked_claimed : (d.reworked w).claimed = d.claimed := by
  simp only [Dr.reworked, Dr.recordPosted, Dr.workOut_keeps]

@[simp] theorem Dr.reworked_keepOn : (d.reworked w).keepOn = d.keepOn := by
  simp only [Dr.reworked, Dr.recordPosted, Dr.workOut_keeps]

@[simp] theorem Dr.reworked_eff : (d.reworked w).eff = d.worked := by
  simp only [Dr.reworked, Dr.recordPosted, Dr.workOut_keeps]

theorem Dr.reworked_demands (m : Module) : (d.reworked w).demands m = d.demands m := by
  simp only [Dr.demands, Dr.reworked_dir, Dr.reworked_views]

theorem Dr.reworked_watches (eff : Vector Level 32) (m : Module) :
    (d.reworked w).watches eff m = d.watches eff m := by
  simp only [Dr.watches, Dr.reworked_dir, Dr.reworked_views]

/-- Which modules are watched turns on the levels given, not on those stored (R116). -/
theorem Dr.watches_eff (x eff : Vector Level 32) (m : Module) :
    ({ d with eff := x } : Dr).watches eff m = d.watches eff m := by
  simp only [Dr.watches]

theorem Dr.reworked_watched (m : Module) : (d.reworked w).watched[m] = d.watches d.worked m := by
  simp only [Dr.reworked, Dr.recordPosted, Dr.workOut, Dr.rewatch, Dr.watches_eff, Fin.getElem_fin, Vector.getElem_ofFn,
    Fin.eta]

theorem Dr.reworked_wakeReq (m : Module) :
    (d.reworked w).wakeReq[m] =
      if d.watches d.worked m then (if d.watched[m] then d.wakeReq[m] else w[m])
      else if d.watched[m] then false else d.wakeReq[m] := by
  simp only [Dr.reworked, Dr.recordPosted, Dr.workOut, Dr.rewatch, Dr.watches_eff, Fin.getElem_fin, Vector.getElem_ofFn,
    Fin.eta]

theorem Dr.reworked_idle (m : Module) :
    (d.reworked w).idle[m] = if d.watched[m] && !d.watches d.worked m then none else d.idle[m] := by
  simp only [Dr.reworked, Dr.recordPosted, Dr.workOut, Dr.rewatch, Dr.watches_eff, Fin.getElem_fin, Vector.getElem_ofFn,
    Fin.eta]

theorem Dr.reworked_need (x : Domain) : (d.reworked w).need[x] = (d.reworked w).needs x := by
  simp only [Dr.reworked, Dr.recordPosted, Dr.workOut, Dr.needs, Dr.keptOn, Fin.getElem_fin, Vector.getElem_ofFn,
    Fin.eta]

theorem Dr.reworked_postedNeed (x : SwDom) : (d.reworked w).postedNeed[x] = (d.reworked w).need[x.domain] := by
  simp only [Dr.reworked, Dr.recordPosted, Fin.getElem_fin, Vector.getElem_ofFn, Fin.eta]

/-- A module in demand has its target posted; another keeps what was posted (R65). -/
theorem Dr.reworked_posted (m : Module) :
    (d.reworked w).posted[m] = if (d.reworked w).demands m then (d.reworked w).target m else d.posted[m] := by
  have howed : (d.reworked w).posted[m] =
      if (d.workOut w).owed m then (d.workOut w).target m else (d.workOut w).posted[m] := by
    simp only [Dr.reworked, Dr.recordPosted, Fin.getElem_fin, Vector.getElem_ofFn, Fin.eta]
  have htarget : (d.reworked w).target m = (d.workOut w).target m := by
    simp only [Dr.reworked, Dr.recordPosted, Dr.target]
  have hdemands : (d.workOut w).demands m = d.demands m := by simp only [Dr.demands, Dr.workOut_keeps]
  rw [howed, htarget, Dr.owed, hdemands, Dr.reworked_demands, (d.workOut_keeps w).2.2.2.2.1]
  generalize d.posted[m] = before
  by_cases hp : (d.workOut w).target m = before
  · rw [hp, ite_self, ite_self]
  · rw [decide_eq_true hp, Bool.and_true]

end
end Sys2Proof.Machine


namespace Sys2Proof.Machine

/-! ### After the end of an event at the resolver all demand agrees (R61, R65, R68, R116, R120) -/

section
variable {d : Dr} {w : Vector Bool 32}

theorem Dr.reworked_level (ho : d.Ordered) (m : Module) : (d.reworked w).eff[m] = (d.reworked w).dueLevel m := by
  simp only [Dr.dueLevel, Dr.reworked_demands, Dr.reworked_dir, Dr.reworked_claimed, Dr.reworked_eff]
  exact Dr.worked_get ho m

theorem Dr.reworked_wakeNeed (d : Dr) (w : Vector Bool 32) : (d.reworked w).wakeNeed = (d.reworked w).wakeNeeds := by
  simp only [Dr.reworked, Dr.recordPosted, Dr.workOut, Dr.rewatch, Dr.wakeNeeds]

theorem Dr.reworked_ordered (ho : d.Ordered) : (d.reworked w).Ordered := by
  unfold Dr.Ordered
  rw [Dr.reworked_dir]
  exact ho

theorem Dr.reworked_wake (ho : d.Ordered) (m : Module) : (d.reworked w).wakeNeed[m] = (d.reworked w).dueWake m := by
  rw [Dr.dueWake, Dr.reworked_wakeNeed]
  exact Dr.wakeNeeds_get (Dr.reworked_ordered ho) m

/-- A module that is not watched at the event's end has neither a wake request nor an idle count, where none that was not
watched before had one (R116). -/
theorem Dr.reworked_wakeKept (hk : d.WakeKept) : (d.reworked w).WakeKept := by
  intro m hm
  rw [Dr.reworked_watched] at hm
  rw [Dr.reworked_wakeReq, Dr.reworked_idle, hm]
  cases hw : d.watched[m] with
  | true => exact ⟨rfl, rfl⟩
  | false => exact hk m hw

end

/-- The end of an event leaves all demand in agreement (R61, R65, R68, R116, R120). -/
theorem demandRight_of_reworked {t : State} {d : Dr} {w : Vector Bool 32} (ht : t.dr = d.reworked w) (ho : d.Ordered)
    (hk : d.WakeKept) : DemandRight t := by
  unfold DemandRight
  rw [ht]
  refine ⟨fun m => ⟨Dr.reworked_level ho m, ?_, Dr.reworked_wake ho m, fun hd => ?_, Dr.reworked_wakeKept hk m⟩,
    Dr.reworked_need d w, Dr.reworked_postedNeed d w⟩
  · rw [Dr.reworked_watched, Dr.reworked_watches, Dr.reworked_eff]
  · rw [Dr.reworked_posted, if_pos hd]

section
variable {s : State} (h : DemandRight s) (m : Module)
include h

theorem DemandRight.level : s.dr.eff[m] = s.dr.dueLevel m := (h.1 m).1

theorem DemandRight.watch : s.dr.watched[m] = s.dr.watches s.dr.eff m := (h.1 m).2.1

theorem DemandRight.wake : s.dr.wakeNeed[m] = s.dr.dueWake m := (h.1 m).2.2.1

theorem DemandRight.target (hm : s.dr.demands m = true) : s.dr.posted[m] = s.dr.target m := (h.1 m).2.2.2.1 hm

theorem DemandRight.wakeKept : s.dr.WakeKept := fun m => (h.1 m).2.2.2.2

end

theorem SupplierOrder.ordered {s : State} (h : SupplierOrder s) : s.dr.Ordered := fun m => (h.1 m).2.1

/-- A record on its way to the resolver names a supplier of lower index (R58). -/
theorem SupplierOrder.onWay {s : State} (h : SupplierOrder s) {m : Module} {r : DirRecord}
    (hm : (m, r) ∈ s.links.modulesToDr) : supplierBelow m r := h.2.1 (m, r) hm

/-- Wake requests and idle counts follow the watch of the event's end (R116). -/
theorem watchFollows_of_reworked {s t : State} {d : Dr} (ht : t.dr = d.reworked s.pins.mwake)
    (hw : d.watched = s.dr.watched) (hr : d.wakeReq = s.dr.wakeReq) (hi : d.idle = s.dr.idle) (hk : s.dr.WakeKept) :
    WatchFollows s t := by
  intro m
  rw [ht, Dr.reworked_wakeReq, Dr.reworked_idle, Dr.reworked_watched, hw, hr, hi]
  cases hb : s.dr.watched[m] with
  | true => cases d.watches d.worked m <;> exact ⟨rfl, rfl⟩
  | false =>
    obtain ⟨hreq, hidle⟩ := hk m hb
    rw [hreq, hidle]
    cases d.watches d.worked m <;> exact ⟨rfl, rfl⟩

/-! ### Where the levels agree already, the end of an event leaves them (R61, R116, R120) -/

section
variable {d : Dr} {w : Vector Bool 32} (ho : d.Ordered) (heff : ∀ m : Module, d.eff[m] = d.dueLevel m)
include ho heff

theorem Dr.reworked_eff_same : (d.reworked w).eff = d.eff := by rw [Dr.reworked_eff, Dr.worked_eq ho heff]

variable (hwatch : ∀ m : Module, d.watched[m] = d.watches d.eff m)
include hwatch

theorem Dr.reworked_watched_same : (d.reworked w).watched = d.watched :=
  Vector.ext fun i hi => by
    have h := d.reworked_watched w ⟨i, hi⟩
    rw [Dr.worked_eq ho heff, ← hwatch] at h
    exact h

theorem Dr.reworked_wakeReq_same : (d.reworked w).wakeReq = d.wakeReq :=
  Vector.ext fun i hi => by
    have h := d.reworked_wakeReq w ⟨i, hi⟩
    rw [Dr.worked_eq ho heff, ← hwatch] at h
    refine h.trans ?_
    cases hb : d.watched[(⟨i, hi⟩ : Module)] <;> rfl

theorem Dr.reworked_idle_same : (d.reworked w).idle = d.idle :=
  Vector.ext fun i hi => by
    have h := d.reworked_idle w ⟨i, hi⟩
    rw [Dr.worked_eq ho heff, ← hwatch, Bool.and_not_self] at h
    exact h

variable (hwake : ∀ m : Module, d.wakeNeed[m] = d.dueWake m)
include hwake

theorem Dr.reworked_wakeNeed_same : (d.reworked w).wakeNeed = d.wakeNeed := by
  rw [Dr.reworked_wakeNeed, ← Dr.wakeNeeds_eq ho hwake]
  simp only [Dr.wakeNeeds, Dr.reworked_dir, Dr.reworked_views, Dr.reworked_eff_same ho heff,
    Dr.reworked_wakeReq_same ho heff hwatch, Dr.reworked_idle_same ho heff hwatch]

variable (hposted : ∀ m : Module, d.demands m = true → d.posted[m] = d.target m)
include hposted

theorem Dr.reworked_posted_same : (d.reworked w).posted = d.posted :=
  Vector.ext fun i hi => by
    refine (d.reworked_posted w ⟨i, hi⟩).trans ?_
    split
    · rename_i hd
      rw [Dr.reworked_demands] at hd
      rw [Dr.target, Dr.reworked_eff_same ho heff, Dr.reworked_wakeNeed_same ho heff hwatch hwake]
      exact (hposted _ hd).symm
    · rfl

end

/-! ### What the end of an event posts (R62, R65, R66, R68) -/

/-- Of a list without duplicates, the one member that is `a`, where it passes the test. -/
theorem filter_and_eq {α : Type} [DecidableEq α] {l : List α} (hl : l.Nodup) {a : α} (ha : a ∈ l) (p : α → Bool) :
    l.filter (fun x => p x && decide (x = a)) = if p a then [a] else [] := by
  rw [← List.filter_filter, List.filter_eq, List.count_eq_one_of_mem hl ha]
  cases hp : p a <;> simp [hp]

/-- The need posting of each engine, none for E0 (R68, R70). -/
theorem Dr.needPostings_for (d : Dr) (e : Domain) :
    (d.needPostings.filter fun p => decide (p.1 = e)).map (·.2) = owedNeed d d.postedNeed e := by
  rw [Dr.needPostings, List.filter_map, List.map_map, List.filter_filter]
  cases hx : switchedOf e with
  | none =>
    have hne (x : SwDom) : x.domain ≠ e := fun h => by cases (switchedOf_eq_some.2 h).symm.trans hx
    simp [owedNeed, hx, hne]
  | some x =>
    obtain rfl := switchedOf_eq_some.1 hx
    have hsame (y : SwDom) : decide (y.domain = x.domain) = decide (y = x) := by simp [SwDom.domain]
    simp only [Function.comp_def, hsame, Bool.and_comm (decide (_ = x))]
    rw [allSwitched, filter_and_eq (List.nodup_finRange 3) (List.mem_finRange x), owedNeed, hx]
    by_cases hn : d.need[x.domain] = d.postedNeed[x]
    · simp only [hn, ne_eq, not_true, decide_false, Bool.false_eq_true, if_false, if_true, List.map_nil]
    · simp only [hn, ne_eq, not_false_iff, decide_true, if_false, if_true, List.map_cons, List.map_nil]

/-- The target postings of each engine, in ascending module index (R65, R66). -/
theorem Dr.targetPostings_for (d : Dr) (e : Domain) :
    (d.targetPostings.filter fun p => decide (p.1 = e)).map (·.2) = owedTargets d d.posted e := by
  rw [Dr.targetPostings, List.filter_map, List.map_map, List.filter_filter, owedTargets]
  refine congrArg _ (List.filter_congr fun k _ => ?_)
  simp only [Function.comp_apply, Dr.owed]
  rw [Bool.and_left_comm, Bool.and_assoc]

theorem Dr.demands_congr {a b : Dr} (hdir : a.dir = b.dir) (hviews : a.views = b.views) (m : Module) :
    a.demands m = b.demands m := by rw [Dr.demands, hdir, hviews, Dr.demands]

/-- What the resolver owes turns on its directory, views, levels, wake needs and domain needs only. -/
theorem owedTargets_congr {a b : Dr} {p q : Vector Target 32} (hd : ∀ k, a.demands k = b.demands k)
    (hdir : a.dir = b.dir) (ht : ∀ k, a.target k = b.target k)
    (hp : ∀ k : Module, b.demands k = true → p[k] = q[k]) (e : Domain) : owedTargets a p e = owedTargets b q e := by
  unfold owedTargets
  rw [hdir, List.map_congr_left fun k _ => by rw [ht k]]
  refine congrArg _ (List.filter_congr fun k _ => ?_)
  rw [hd, ht]
  cases hk : b.demands k with
  | true => rw [hp k hk]
  | false => rfl

theorem owedNeed_congr {a b : Dr} (h : a.need = b.need) (p : Vector Bool 3) (e : Domain) :
    owedNeed a p e = owedNeed b p e := by rw [owedNeed, h, owedNeed]

/-- The end of an event posts to each engine the targets owed, then the need owed, then the event's notices (R66, R68,
R140, R146). -/
theorem State.finishDr_posts (s : State) (ns : List (Domain × DrPosting)) (e : Domain) :
    (s.finishDr ns).links.drToEngine[e] =
      s.links.drToEngine[e] ++ owedTargets (s.finishDr ns).dr s.dr.posted e ++
        owedNeed (s.finishDr ns).dr s.dr.postedNeed e ++ (ns.filter fun p => decide (p.1 = e)).map (·.2) := by
  obtain ⟨-, -, -, -, hposted, hneed, -⟩ := s.dr.workOut_keeps s.pins.mwake
  have htargets : owedTargets (s.finishDr ns).dr s.dr.posted e =
      owedTargets (s.dr.workOut s.pins.mwake) (s.dr.workOut s.pins.mwake).posted e := by
    rw [State.finishDr_dr, hposted]
    have hdir : (s.dr.workOut s.pins.mwake).recordPosted.dir = (s.dr.workOut s.pins.mwake).dir := by
      simp only [Dr.recordPosted]
    exact owedTargets_congr (Dr.demands_congr hdir (by simp only [Dr.recordPosted])) hdir
      (fun k => by simp only [Dr.target, Dr.recordPosted]) (fun _ _ => rfl) e
  have hneeds : owedNeed (s.finishDr ns).dr s.dr.postedNeed e =
      owedNeed (s.dr.workOut s.pins.mwake) (s.dr.workOut s.pins.mwake).postedNeed e := by
    rw [State.finishDr_dr, hneed]
    exact owedNeed_congr (by simp only [Dr.recordPosted]) ..
  rw [State.finishDr_drToEngine, List.filter_append, List.filter_append, List.map_append, List.map_append,
    Dr.targetPostings_for, Dr.needPostings_for, htargets, hneeds, List.append_assoc, List.append_assoc, List.append_assoc]

end Sys2Proof.Machine


namespace Sys2Proof.Machine

/-! ### One event at the resolver (R57, R59, R60, R69) -/

theorem set_get_self {α : Type} {n : Nat} (v : Vector α n) (i : Fin n) (a : α) : (v.set i a)[i] = a :=
  modifyAt_get_self v i fun _ => a

theorem set_get_ne {α : Type} {n : Nat} (v : Vector α n) {i j : Fin n} (a : α) (h : j ≠ i) : (v.set i a)[j] = v[j] :=
  modifyAt_get_ne v (fun _ => a) h

theorem State.finishDr_links (s : State) (ns : List (Domain × DrPosting)) :
    (s.finishDr ns).links = { s.links with drToEngine := (s.finishDr ns).links.drToEngine } :=
  congrArg State.links (s.finishDr_eq ns)

/-- The end of an event touches the resolver and the streams to the engines only. -/
theorem onlyResolver_finishDr {s u : State} (h : OnlyResolver s u) (ns : List (Domain × DrPosting)) :
    OnlyResolver s (u.finishDr ns) := by
  unfold OnlyResolver SamePorts at h ⊢
  simpa only [State.finishDr_ct, State.finishDr_engines, State.finishDr_timebase, State.finishDr_ports,
    State.finishDr_lastServed, State.finishDr_inReset, State.finishDr_pending] using h

theorem onlyResolver_onDr (s : State) (f : Links → Links) (g : Dr → Dr) : OnlyResolver s ((s.onLinks f).onDr g) :=
  ⟨rfl, rfl, rfl, ⟨rfl, rfl⟩, rfl, rfl⟩

theorem demandPosted_finishDr {s u : State} {ns : List (Domain × DrPosting)} {posted : Vector Target 32}
    {extra : Domain → List DrPosting} (hl : u.links.drToEngine = s.links.drToEngine)
    (hn : u.dr.postedNeed = s.dr.postedNeed) (hp : u.dr.posted = posted)
    (hx : ∀ e : Domain, (ns.filter fun p => decide (p.1 = e)).map (·.2) = extra e) :
    DemandPosted s (u.finishDr ns) posted extra := fun e => by
  rw [State.finishDr_posts, hl, hn, hp, hx]

theorem dropDrNotice_eq {s : State} {e : Domain} {n : DrNotice} {rest : List DrNotice}
    (h : s.links.toDr[e] = n :: rest) :
    s.dropDrNotice e = s.onLinks fun k => { k with toDr := s.links.toDr.set e rest } := by
  rw [← modifyAt_tail _ _ h]
  rfl

section
variable {s : State} (hrun : Running s)
include hrun

theorem exec_claimedLevelNotice {m : Module} {l : Level} {before rest : List (Module × Level)}
    (hl : s.links.claimedLevels = before ++ (m, l) :: rest) (hb : ∀ h ∈ before, h.1 ≠ m) :
    exec (.claimedLevelNotice m) s =
      .next ((s.onLinks fun k => { k with claimedLevels := before ++ rest }).takeClaimed m l) := by
  change Host.Outcome.next (s.awake _) = _
  rw [State.awake_running _ hrun, hl, takeKey_of_split hb]

theorem exec_setKeepOnHandover {x : SwDom} {on : Bool} {before rest : List (SwDom × Bool)}
    (hl : s.links.keepOnToDr = before ++ (x, on) :: rest) (hb : ∀ h ∈ before, h.1 ≠ x) :
    exec (.setKeepOnHandover x) s =
      .next (((s.onLinks fun k => { k with keepOnToDr := before ++ rest }).onDr fun d =>
        { d with keepOn := d.keepOn.set x on }).finishDr []) := by
  change Host.Outcome.next (s.awake _) = _
  rw [State.awake_running _ hrun, hl, takeKey_of_split hb]

theorem exec_setModuleHandoverDr {m : Module} {r : DirRecord} {before rest : List (Module × DirRecord)}
    (hl : s.links.modulesToDr = before ++ (m, r) :: rest) (hb : ∀ h ∈ before, h.1 ≠ m) :
    exec (.setModuleHandoverDr m) s =
      .next ((s.onLinks fun k => { k with modulesToDr := before ++ rest }).takeModuleDr m r) := by
  change Host.Outcome.next (s.awake _) = _
  rw [State.awake_running _ hrun, hl, takeKey_of_split hb]

theorem exec_stateNotice {e : Domain} {m : Module} {v : DrView} {rest : List DrNotice}
    (hl : s.links.toDr[e] = .state m v :: rest) :
    exec (.stateNotice e) s = .next ((s.onLinks fun k => { k with toDr := s.links.toDr.set e rest }).takeState m v) := by
  change Host.Outcome.next (s.awake _) = _
  rw [State.awake_running _ hrun, State.drNotice, hl, ← dropDrNotice_eq hl]
  rfl

theorem exec_faultNoticeAtDr {e : Domain} {m : Module} {c : ModCause} {rest : List DrNotice}
    (hl : s.links.toDr[e] = .fault m c :: rest) :
    exec (.faultNoticeAtDr e) s =
      .next ((s.onLinks fun k => { k with toDr := s.links.toDr.set e rest }).takeDrFault m) := by
  change Host.Outcome.next (s.awake _) = _
  rw [State.awake_running _ hrun, State.drNotice, hl, ← dropDrNotice_eq hl]
  rfl

end

/-! ### Claimed levels and keep-on (R59, R69) -/

theorem takeClaimed_reworks {s : State} {m : Module} {l : Level} {before rest : List (Module × Level)}
    (ho : SupplierOrder s) (hd : DemandRight s) :
    let t := (s.onLinks fun k => { k with claimedLevels := before ++ rest }).takeClaimed m l
    OnlyResolver s t ∧ t.ticks = s.ticks ∧ t.pins = s.pins ∧
      t.links = { s.links with claimedLevels := before ++ rest, drToEngine := t.links.drToEngine } ∧
      t.dr.claimed[m] = l ∧ (∀ k : Module, k ≠ m → t.dr.claimed[k] = s.dr.claimed[k]) ∧
      t.dr.dir = s.dr.dir ∧ t.dr.views = s.dr.views ∧ t.dr.keepOn = s.dr.keepOn ∧ WatchFollows s t ∧
      DemandRight t ∧ DemandPosted s t s.dr.posted fun _ => [] := by
  intro t
  have hdr : t.dr = ({ s.dr with claimed := s.dr.claimed.set m l } : Dr).reworked s.pins.mwake :=
    State.finishDr_reworked ..
  refine ⟨onlyResolver_finishDr (onlyResolver_onDr ..) _, State.finishDr_ticks .., State.finishDr_pins ..,
    State.finishDr_links .., ?_, fun k hk => ?_, ?_, ?_, ?_, watchFollows_of_reworked hdr rfl rfl rfl hd.wakeKept,
    demandRight_of_reworked hdr ho.ordered hd.wakeKept, demandPosted_finishDr rfl rfl rfl fun _ => rfl⟩
  · rw [hdr, Dr.reworked_claimed]; exact set_get_self ..
  · rw [hdr, Dr.reworked_claimed]; exact set_get_ne _ _ hk
  · rw [hdr, Dr.reworked_dir]
  · rw [hdr, Dr.reworked_views]
  · rw [hdr, Dr.reworked_keepOn]

/-- Where levels, watches, wake needs and targets agree already, the end of an event changes domain needs only (R68). -/
theorem Dr.reworked_needs_only {d : Dr} {w : Vector Bool 32} (ho : d.Ordered)
    (heff : ∀ m : Module, d.eff[m] = d.dueLevel m) (hwatch : ∀ m : Module, d.watched[m] = d.watches d.eff m)
    (hwake : ∀ m : Module, d.wakeNeed[m] = d.dueWake m)
    (hposted : ∀ m : Module, d.demands m = true → d.posted[m] = d.target m) :
    d.reworked w = { d with need := (d.reworked w).need, postedNeed := (d.reworked w).postedNeed } := by
  have hsame (x : Dr) : x.dir = d.dir → x.claimed = d.claimed → x.views = d.views → x.eff = d.eff →
      x.posted = d.posted → x.watched = d.watched → x.wakeReq = d.wakeReq → x.idle = d.idle →
      x.wakeNeed = d.wakeNeed → x.keepOn = d.keepOn → x = { d with need := x.need, postedNeed := x.postedNeed } := by
    cases x
    rintro rfl rfl rfl rfl rfl rfl rfl rfl rfl rfl
    rfl
  exact hsame _ (d.reworked_dir w) (d.reworked_claimed w) (d.reworked_views w) (Dr.reworked_eff_same ho heff)
    (Dr.reworked_posted_same ho heff hwatch hwake hposted) (Dr.reworked_watched_same ho heff hwatch)
    (Dr.reworked_wakeReq_same ho heff hwatch) (Dr.reworked_idle_same ho heff hwatch)
    (Dr.reworked_wakeNeed_same ho heff hwatch hwake) (d.reworked_keepOn w)

theorem keepOn_reworks {s : State} {x : SwDom} {on : Bool} {before rest : List (SwDom × Bool)}
    (ho : SupplierOrder s) (hd : DemandRight s) :
    let t := ((s.onLinks fun k => { k with keepOnToDr := before ++ rest }).onDr fun d =>
      { d with keepOn := d.keepOn.set x on }).finishDr []
    OnlyResolver s t ∧ t.ticks = s.ticks ∧ t.pins = s.pins ∧
      t.links = { s.links with keepOnToDr := before ++ rest, drToEngine := t.links.drToEngine } ∧
      t.dr.keepOn[x] = on ∧ (∀ y : SwDom, y ≠ x → t.dr.keepOn[y] = s.dr.keepOn[y]) ∧
      t.dr = { s.dr with keepOn := t.dr.keepOn, need := t.dr.need, postedNeed := t.dr.postedNeed } ∧
      DemandRight t ∧ DemandPosted s t s.dr.posted fun _ => [] := by
  intro t
  let d : Dr := { s.dr with keepOn := s.dr.keepOn.set x on }
  have hdr : t.dr = d.reworked s.pins.mwake := State.finishDr_reworked ..
  have hkeepOn : t.dr.keepOn = s.dr.keepOn.set x on := by rw [hdr, Dr.reworked_keepOn]
  refine ⟨onlyResolver_finishDr (onlyResolver_onDr ..) _, State.finishDr_ticks .., State.finishDr_pins ..,
    State.finishDr_links .., ?_, fun y hy => ?_, ?_, demandRight_of_reworked hdr ho.ordered hd.wakeKept,
    demandPosted_finishDr rfl rfl rfl fun _ => rfl⟩
  · rw [hkeepOn]; exact set_get_self ..
  · rw [hkeepOn]; exact set_get_ne _ _ hy
  · have hsame := Dr.reworked_needs_only (d := d) (w := s.pins.mwake) ho.ordered hd.level
      hd.watch hd.wake fun m => hd.target m
    rw [hkeepOn, hdr]
    exact hsame

/-- Settles O38: one event at the resolver each, which ends with everything worked out and posted. -/
theorem levelsAndKeepOnReworkDemand : Obligations.LevelsAndKeepOnReworkDemand := by
  unfold Obligations.LevelsAndKeepOnReworkDemand
  exact ⟨fun s m l before rest hrun ho hd hl hb => ⟨_, exec_claimedLevelNotice hrun hl hb, takeClaimed_reworks ho hd⟩,
    fun s x on before rest hrun ho hd hl hb => ⟨_, exec_setKeepOnHandover hrun hl hb, keepOn_reworks ho hd⟩⟩

end Sys2Proof.Machine


namespace Sys2Proof.Machine

/-! ### State and fault notices (R60, R63, R64, R140, R146) -/

/-- The notices about the dependents of a module that one engine receives (R140, R146). -/
theorem Dr.toDependents_for (d : Dr) (m : Module) (notice : Module → DrPosting) (e : Domain) :
    ((d.toDependents m notice).filter fun p => decide (p.1 = e)).map (·.2) = noticesFor d m notice e := by
  rw [Dr.toDependents, List.filter_map, List.map_map]
  rfl

/-- A notice that takes a module out of FAULT tells its dependents' engines, another does not (R146). -/
theorem Dr.supplierClears_for (d : Dr) (m : Module) (v : DrView) (e : Domain) :
    ((if decide (d.views[m].state = .fault) && decide (v.state ≠ .fault) then d.toDependents m .supplierClear
      else []).filter fun p => decide (p.1 = e)).map (·.2) =
      if d.views[m].state = .fault ∧ v.state ≠ .fault then noticesFor d m .supplierClear e else [] := by
  have hcond : (decide (d.views[m].state = .fault) && decide (v.state ≠ .fault)) = true ↔
      d.views[m].state = .fault ∧ v.state ≠ .fault := by
    rw [Bool.and_eq_true, decide_eq_true_eq, decide_eq_true_eq]
  by_cases hleaves : d.views[m].state = .fault ∧ v.state ≠ .fault
  · rw [if_pos hleaves, if_pos (hcond.2 hleaves), Dr.toDependents_for]
  · rw [if_neg hleaves, if_neg (hcond.not.2 hleaves)]
    rfl

/-- A module out of demand has level 0 and no wake need, and is not watched (R61, R116, R120). -/
theorem DemandRight.of_not_demands {t : State} (h : DemandRight t) {m : Module} (hm : t.dr.demands m = false) :
    t.dr.eff[m] = 0 ∧ t.dr.watched[m] = false ∧ t.dr.wakeReq[m] = false ∧ t.dr.idle[m] = none ∧
      t.dr.wakeNeed[m] = false := by
  obtain ⟨heff, hwatched, hwake, -, hkept⟩ := h.1 m
  have hlevel : t.dr.eff[m] = 0 := by rw [heff, Dr.dueLevel, hm]; rfl
  have hw : t.dr.watched[m] = false := by
    rw [hwatched, Dr.watches]
    rw [Dr.demands, Bool.and_eq_false_iff] at hm
    rcases hm with hp | hf
    · rw [hp]; simp only [Bool.false_and]
    · rw [hf]; simp only [Bool.and_false, Bool.false_and]
  refine ⟨hlevel, hw, (hkept hw).1, (hkept hw).2, ?_⟩
  rw [hwake, Dr.dueWake, hlevel]
  rfl

theorem takeState_reworks {s : State} {e : Domain} {m : Module} {v : DrView} {rest : List DrNotice}
    (ho : SupplierOrder s) (hd : DemandRight s) :
    let t := (s.onLinks fun k => { k with toDr := s.links.toDr.set e rest }).takeState m v
    OnlyResolver s t ∧ t.ticks = s.ticks ∧ t.pins = s.pins ∧
      t.links = { s.links with toDr := s.links.toDr.set e rest, drToEngine := t.links.drToEngine } ∧
      t.dr.views[m] = v ∧ (∀ k : Module, k ≠ m → t.dr.views[k] = s.dr.views[k]) ∧
      t.dr.dir = s.dr.dir ∧ t.dr.claimed = s.dr.claimed ∧ t.dr.keepOn = s.dr.keepOn ∧ WatchFollows s t ∧
      DemandRight t ∧
      DemandPosted s t s.dr.posted fun d =>
        if s.dr.views[m].state = .fault ∧ v.state ≠ .fault then noticesFor s.dr m .supplierClear d else [] := by
  intro t
  have hdr : t.dr = ({ s.dr with views := s.dr.views.set m v } : Dr).reworked s.pins.mwake :=
    State.finishDr_reworked ..
  refine ⟨onlyResolver_finishDr (onlyResolver_onDr ..) _, State.finishDr_ticks .., State.finishDr_pins ..,
    State.finishDr_links .., ?_, fun k hk => ?_, ?_, ?_, ?_, watchFollows_of_reworked hdr rfl rfl rfl hd.wakeKept,
    demandRight_of_reworked hdr ho.ordered hd.wakeKept, demandPosted_finishDr rfl rfl rfl (Dr.supplierClears_for s.dr m v)⟩
  · rw [hdr, Dr.reworked_views]; exact set_get_self ..
  · rw [hdr, Dr.reworked_views]; exact set_get_ne _ _ hk
  · rw [hdr, Dr.reworked_dir]
  · rw [hdr, Dr.reworked_claimed]
  · rw [hdr, Dr.reworked_keepOn]

theorem takeDrFault_entering {s : State} {m : Module} (h : s.dr.views[m].state ≠ .fault) :
    s.takeDrFault m =
      (s.onDr fun d =>
        { d with views := d.views.set m { state := .fault, armed := false, woken := false }
                 posted := d.posted.set m .off }).finishDr (s.dr.toDependents m .supplierFault) := by
  rw [State.takeDrFault, if_neg h]

theorem takeDrFault_reworks {s : State} {e : Domain} {m : Module} {rest : List DrNotice}
    (ho : SupplierOrder s) (hd : DemandRight s) (hm : s.dr.views[m].state ≠ .fault) :
    let t := (s.onLinks fun k => { k with toDr := s.links.toDr.set e rest }).takeDrFault m
    OnlyResolver s t ∧ t.ticks = s.ticks ∧ t.pins = s.pins ∧
      t.links = { s.links with toDr := s.links.toDr.set e rest, drToEngine := t.links.drToEngine } ∧
      t.dr.views[m] = { state := .fault, armed := false, woken := false } ∧
      (∀ k : Module, k ≠ m → t.dr.views[k] = s.dr.views[k]) ∧
      t.dr.eff[m] = 0 ∧ t.dr.posted[m] = .off ∧ t.dr.watched[m] = false ∧ t.dr.wakeReq[m] = false ∧
      t.dr.idle[m] = none ∧ t.dr.wakeNeed[m] = false ∧
      t.dr.dir = s.dr.dir ∧ t.dr.claimed = s.dr.claimed ∧ t.dr.keepOn = s.dr.keepOn ∧ WatchFollows s t ∧
      DemandRight t ∧ DemandPosted s t s.dr.posted (noticesFor s.dr m .supplierFault) := by
  intro t
  let d : Dr := { s.dr with
    views := s.dr.views.set m { state := .fault, armed := false, woken := false }, posted := s.dr.posted.set m .off }
  have ht : t = _ := takeDrFault_entering hm
  have hdr : t.dr = d.reworked s.pins.mwake := by rw [ht]; exact State.finishDr_reworked ..
  have hview : t.dr.views[m] = { state := .fault, armed := false, woken := false } := by
    rw [hdr, Dr.reworked_views]; exact set_get_self ..
  have hright : DemandRight t := demandRight_of_reworked hdr ho.ordered hd.wakeKept
  have hout : t.dr.demands m = false := by
    rw [Dr.demands, hview]
    exact Bool.and_false _
  obtain ⟨heff, hwatched, hreq, hidle, hneed⟩ := hright.of_not_demands hout
  have hposted : t.dr.posted[m] = .off := by
    rw [hdr, Dr.reworked_posted, if_neg]
    · exact set_get_self ..
    · rw [← hdr, hout]; exact Bool.false_ne_true
  have hpost : DemandPosted s t (s.dr.posted.set m .off) (noticesFor s.dr m .supplierFault) := by
    rw [ht]
    exact demandPosted_finishDr rfl rfl rfl (Dr.toDependents_for s.dr m .supplierFault)
  refine ⟨?_, ?_, ?_, ?_, hview, fun k hk => ?_, heff, hposted, hwatched, hreq, hidle, hneed, ?_, ?_, ?_,
    watchFollows_of_reworked hdr rfl rfl rfl hd.wakeKept, hright, fun f => ?_⟩
  · rw [ht]; exact onlyResolver_finishDr (onlyResolver_onDr ..) _
  · rw [ht]; exact State.finishDr_ticks ..
  · rw [ht]; exact State.finishDr_pins ..
  · rw [ht]; exact State.finishDr_links ..
  · rw [hdr, Dr.reworked_views]; exact set_get_ne _ _ hk
  · rw [hdr, Dr.reworked_dir]
  · rw [hdr, Dr.reworked_claimed]
  · rw [hdr, Dr.reworked_keepOn]
  · have howed : owedTargets t.dr s.dr.posted f = owedTargets t.dr (s.dr.posted.set m .off) f :=
      owedTargets_congr (fun _ => rfl) rfl (fun _ => rfl) (fun k hk => (set_get_ne _ _ fun h => by
        rw [h, hout] at hk; cases hk).symm) f
    rw [howed]
    exact hpost f

/-- Settles O39: a notice writes the module's view, and the event ends with everything worked out and posted; a module
shown in FAULT is out of demand. -/
theorem engineNoticesReworkDemand : Obligations.EngineNoticesReworkDemand := by
  unfold Obligations.EngineNoticesReworkDemand
  refine ⟨fun s e m v rest hrun ho hd hl => ⟨_, exec_stateNotice hrun hl, takeState_reworks ho hd⟩,
    fun s e m c rest hrun ho hd hl hm => ⟨_, exec_faultNoticeAtDr hrun hl, takeDrFault_reworks ho hd hm⟩,
    fun s e m c rest hrun hl hm => ?_⟩
  rw [exec_faultNoticeAtDr hrun hl]
  exact congrArg Host.Outcome.next (if_pos hm)

end Sys2Proof.Machine


namespace Sys2Proof.Machine

/-! ### The SET MODULE hand-over (R57, R140) -/

/-- A module that leaves its domain for another with a target posted there (R57). -/
abbrev Dr.moduleLeaves (d : Dr) (m : Module) (r : DirRecord) : Prop :=
  r.present = true ∧ d.dir[m].domain ≠ r.domain ∧ d.posted[m] ≠ .off

/-- The resolver once the record of a SET MODULE hand-over is written (R57). -/
def Dr.withModule (d : Dr) (m : Module) (r : DirRecord) : Dr :=
  { d with
    dir := d.dir.set m r
    posted := if r.present = false ∨ d.moduleLeaves m r then d.posted.set m .off else d.posted }

/-- The streams to the engines once a module that leaves its domain is posted OFF there (R57). -/
def State.offPosted (s : State) (m : Module) (r : DirRecord) : Vector (List DrPosting) 4 :=
  if s.dr.moduleLeaves m r then modifyAt s.links.drToEngine s.dr.dir[m].domain (· ++ [.target m .off])
  else s.links.drToEngine

theorem State.offPosted_get (s : State) (m : Module) (r : DirRecord) (e : Domain) :
    (s.offPosted m r)[e] =
      s.links.drToEngine[e] ++
        if s.dr.moduleLeaves m r ∧ e = s.dr.dir[m].domain then [.target m .off] else [] := by
  unfold State.offPosted
  by_cases hleaves : s.dr.moduleLeaves m r
  · rw [if_pos hleaves, modifyAt_get]
    by_cases he : e = s.dr.dir[m].domain
    · rw [if_pos he, if_pos ⟨hleaves, he⟩]
    · rw [if_neg he, if_neg fun h => he h.2, List.append_nil]
  · rw [if_neg hleaves, if_neg fun h => hleaves h.1, List.append_nil]

/-- The hand-over is the OFF to the old engine, the record's write, and the end of the event (R57, R140). -/
theorem State.takeModuleDr_eq (s : State) (m : Module) (r : DirRecord) :
    s.takeModuleDr m r =
      ((s.onLinks fun l => { l with drToEngine := s.offPosted m r }).onDr fun d => d.withModule m r).finishDr
        (if r.present && (s.dr.withModule m r).chainFaulted m then [(r.domain, .supplierFault m)] else []) := by
  unfold State.takeModuleDr State.offPosted
  by_cases hleaves : s.dr.moduleLeaves m r
  · simp only [if_pos hleaves]
    rfl
  · simp only [if_neg hleaves]
    rfl

/-- A present supplier, and FAULT on the supplier chain (R57). -/
theorem Dr.chainFaulted_iff (d : Dr) (m : Module) :
    d.chainFaulted m = true ↔
      d.dir[m].supplier.any (fun u => d.dir[u].present) = true ∧
        ∃ u ∈ supplierChain d.dir 32 m, d.views[u].state = .fault := by
  rw [Dr.chainFaulted, Bool.and_eq_true, List.any_eq_true]
  simp only [decide_eq_true_eq]

/-- A posting to one engine under a condition, as each engine receives it. -/
theorem single_for {c : Bool} {p : Prop} [Decidable p] (h : c = true ↔ p) (x e : Domain) (n : DrPosting) :
    ((if c then [(x, n)] else []).filter fun p => decide (p.1 = e)).map (·.2) =
      if p ∧ e = x then [n] else [] := by
  by_cases hp : p
  · rw [if_pos (h.2 hp)]
    by_cases he : e = x
    · subst he
      simp [hp]
    · simp [he, Ne.symm he]
  · rw [if_neg (h.not.2 hp), if_neg fun k => hp k.1]
    rfl

/-- A directory takes a record that names a supplier of lower index (R58). -/
theorem supplierBelow_set {dir : Vector DirRecord 32} (hd : ∀ k : Module, supplierBelow k dir[k]) {m : Module}
    {r : DirRecord} (hr : supplierBelow m r) (k : Module) : supplierBelow k (dir.set m r)[k] := by
  by_cases hk : k = m
  · subst hk
    rw [set_get_self]
    exact hr
  · rw [set_get_ne _ _ hk]
    exact hd k

theorem Dr.withModule_ordered {d : Dr} {m : Module} {r : DirRecord} (ho : d.Ordered) (hr : supplierBelow m r) :
    (d.withModule m r).Ordered := supplierBelow_set ho hr

/-- Settles O40: the hand-over is one event, which ends with everything worked out on the record as written and posted. -/
theorem theDirectoryHandOverReworksDemand : Obligations.TheDirectoryHandOverReworksDemand := by
  unfold Obligations.TheDirectoryHandOverReworksDemand
  intro s m r before rest hrun ho hd hl hb old leaves posted
  have hr : supplierBelow m r := ho.onWay (by rw [hl]; simp)
  refine ⟨_, exec_setModuleHandoverDr hrun hl hb, ?_⟩
  generalize ht : (s.onLinks fun k => { k with modulesToDr := before ++ rest }).takeModuleDr m r = t
  rw [State.takeModuleDr_eq] at ht
  have hdr : t.dr = (s.dr.withModule m r).reworked s.pins.mwake := by rw [← ht]; exact State.finishDr_reworked ..
  have hdir : t.dr.dir = s.dr.dir.set m r := by rw [hdr, Dr.reworked_dir]; rfl
  have hview : t.dr.views = s.dr.views := by rw [hdr, Dr.reworked_views]; rfl
  have hright : DemandRight t := demandRight_of_reworked hdr (Dr.withModule_ordered ho.ordered hr) hd.wakeKept
  refine ⟨?_, ?_, ?_, ?_, ?_, fun k hk => ?_, hview, ?_, ?_, watchFollows_of_reworked hdr rfl rfl rfl hd.wakeKept,
    hright, fun habsent => ?_, ?_⟩
  · rw [← ht]; exact onlyResolver_finishDr ⟨rfl, rfl, rfl, ⟨rfl, rfl⟩, rfl, rfl⟩ _
  · rw [← ht]; exact State.finishDr_ticks ..
  · rw [← ht]; exact State.finishDr_pins ..
  · rw [← ht]; exact State.finishDr_links ..
  · rw [hdir]; exact set_get_self ..
  · rw [hdir]; exact set_get_ne _ _ hk
  · rw [hdr, Dr.reworked_claimed]; rfl
  · rw [hdr, Dr.reworked_keepOn]; rfl
  · have hout : t.dr.demands m = false := by rw [Dr.demands, hdir, set_get_self, habsent]; rfl
    obtain ⟨heff, hwatched, -⟩ := hright.of_not_demands hout
    refine ⟨heff, ?_, hwatched⟩
    have hoff : (s.dr.withModule m r).posted = s.dr.posted.set m .off := if_pos (.inl habsent)
    rw [hdr] at hout ⊢
    rw [Dr.reworked_posted, if_neg (by rw [hout]; exact Bool.false_ne_true), hoff]
    exact set_get_self ..
  · intro faulted e
    have hfaulted : (r.present && (s.dr.withModule m r).chainFaulted m) = true ↔ faulted := by
      have hrec : (s.dr.withModule m r).dir[m] = r := set_get_self ..
      rw [Bool.and_eq_true, Dr.chainFaulted_iff, hrec]
      change _ ↔ _ ∧ _ ∧ _
      rw [hdir, hview]
      rfl
    have hposts : t.links.drToEngine[e] = (s.offPosted m r)[e] ++ owedTargets t.dr posted e ++
        owedNeed t.dr s.dr.postedNeed e ++
        ((if r.present && (s.dr.withModule m r).chainFaulted m then [(r.domain, .supplierFault m)] else []).filter
          fun p => decide (p.1 = e)).map (·.2) := by
      rw [← ht]
      exact State.finishDr_posts ..
    rw [single_for hfaulted, s.offPosted_get] at hposts
    exact hposts

end Sys2Proof.Machine


namespace Sys2Proof.Machine

/-! ### Supplier order and demand, kept together (R58, R116) -/

/-- Suppliers stand below their dependents, and what the demand resolver works out agrees. -/
abbrev DemandSound (s : State) : Prop := SupplierOrder s ∧ DemandRight s

section
variable {s t : State}

/-- A change away from the directories, the resolver, and the records on their way. -/
theorem DemandSound.of_same (hs : DemandSound s) (hct : t.ct.dir = s.ct.dir) (hdr : t.dr = s.dr)
    (hengines : t.engines.dir = s.engines.dir) (hway : t.links.modulesToDr = s.links.modulesToDr)
    (hposted : t.links.ctToEngine = s.links.ctToEngine) : DemandSound t := by
  unfold DemandSound SupplierOrder DemandRight at hs ⊢
  rw [hct, hdr, hengines, hway, hposted]
  exact hs

theorem Ct.SameBase.dir {c d : Ct} (h : c.SameBase d) : d.dir = c.dir := h.1.2.2.1

theorem Ct.takeLevel_dir (ct : Ct) (m : Module) (x : Level) (g : Byte) : (ct.takeLevel m x g).dir = ct.dir :=
  (Ct.SameBase.foldl (fun b a => by rw [Ct.settleClaim_eq]; exact Ct.restate_sameBase _ _ b a) _ _).dir

theorem demandSound_onTicks (hs : DemandSound s) (f : TickWaiting → TickWaiting) : DemandSound (s.onTicks f) := hs

theorem demandSound_postToEngines (hs : DemandSound s) (v : Vector (List DrPosting) 4) :
    DemandSound (s.onLinks fun l => { l with drToEngine := v }) := hs

theorem demandSound_levelsLeft (hs : DemandSound s) (l : List (Module × Level)) :
    DemandSound (s.onLinks fun k => { k with claimedLevels := l }) := hs

theorem demandSound_keepOnLeft (hs : DemandSound s) (l : List (SwDom × Bool)) :
    DemandSound (s.onLinks fun k => { k with keepOnToDr := l }) := hs

/-- A record leaves its way to the resolver (R57). -/
theorem demandSound_modulesLeft (hs : DemandSound s) {before after : List (Module × DirRecord)} {n : Module × DirRecord}
    (h : s.links.modulesToDr = before ++ n :: after) :
    DemandSound (s.onLinks fun k => { k with modulesToDr := before ++ after }) := by
  obtain ⟨⟨hdirs, hway, hposted⟩, hright⟩ := hs
  refine ⟨⟨hdirs, fun n hn => hway n ?_, hposted⟩, hright⟩
  rw [h]
  exact List.mem_append.2 ((List.mem_append.1 hn).imp_right (List.mem_cons_of_mem _))

/-- No write of an engine touches a directory, the resolver, or a record on its way. -/
theorem demandSound_engineKept : EngineKept DemandSound :=
  ⟨fun _ _ h => h, fun _ _ h => h, fun _ _ h => h, fun _ _ h => h, fun _ _ h => h, fun _ _ _ h => h⟩

/-- The end of an event at the resolver brings all demand into agreement (R61, R65, R68, R116, R120). -/
theorem demandSound_finishDr (ho : SupplierOrder s) (hk : s.dr.WakeKept) (ns : List (Domain × DrPosting)) :
    DemandSound (s.finishDr ns) := by
  refine ⟨?_, demandRight_of_reworked (State.finishDr_reworked s ns) ho.ordered hk⟩
  unfold SupplierOrder at ho ⊢
  rw [State.finishDr_ct, State.finishDr_engines, State.finishDr_reworked, Dr.reworked_dir, State.finishDr_links]
  exact ho

/-- What the claim table posts to an engine names suppliers of lower index, if it carries a record (R58). -/
theorem demandSound_postEngine (hs : DemandSound s) (e : Domain) {n : CtPosting}
    (hn : ∀ r ∈ n.record, supplierBelow r.1 r.2) : DemandSound (s.postEngine e n) := by
  obtain ⟨⟨hdirs, hway, hposted⟩, hright⟩ := hs
  refine ⟨⟨hdirs, hway, fun d h hh => ?_⟩, hright⟩
  rw [State.postEngine_links, modifyAt_get] at hh
  split at hh
  · rcases List.mem_append.1 hh with hh | hh
    · exact hposted d h hh
    · rw [List.mem_singleton.1 hh]
      exact hn
  · exact hposted d h hh

theorem demandSound_dropCtPosting (hs : DemandSound s) (e : Domain) : DemandSound (s.dropCtPosting e) := by
  obtain ⟨⟨hdirs, hway, hposted⟩, hright⟩ := hs
  refine ⟨⟨hdirs, hway, fun d h hh => ?_⟩, hright⟩
  rw [State.dropCtPosting_links, modifyAt_get] at hh
  split at hh
  · exact hposted d h (List.mem_of_mem_tail hh)
  · exact hposted d h hh

/-- A record on its way to an engine names a supplier of lower index (R58). -/
theorem SupplierOrder.ofPosting (ho : SupplierOrder s) {e old : Domain} {m : Module} {r : DirRecord}
    (h : s.ctPosting e = some (.setModule m r old)) : supplierBelow m r :=
  ho.2.2 e _ (List.mem_of_head? h) (m, r) rfl

/-- A record that names a supplier of lower index is written at the engines (R74). -/
theorem demandSound_writeEngines (hs : DemandSound s) {m : Module} {r : DirRecord} (hr : supplierBelow m r) :
    DemandSound (s.onEngines fun g => { g with dir := g.dir.set m r }) := by
  obtain ⟨⟨hdirs, hway, hposted⟩, hright⟩ := hs
  exact ⟨⟨fun k => ⟨(hdirs k).1, (hdirs k).2.1, supplierBelow_set (fun k => (hdirs k).2.2) hr k⟩, hway, hposted⟩, hright⟩

/-- A record that names a supplier of lower index is written at the claim table (R168, R169). -/
theorem demandSound_writeCt (hs : DemandSound s) {m : Module} {r : DirRecord} (hr : supplierBelow m r) :
    DemandSound (s.onCt fun ct => { ct with dir := ct.dir.set m r }) := by
  obtain ⟨⟨hdirs, hway, hposted⟩, hright⟩ := hs
  exact ⟨⟨fun k => ⟨supplierBelow_set (fun k => (hdirs k).1) hr k, (hdirs k).2⟩, hway, hposted⟩, hright⟩

/-- A record sets out for the resolver (R57). -/
theorem demandSound_sendModule (hs : DemandSound s) {m : Module} {r : DirRecord} (hr : supplierBelow m r) :
    DemandSound (s.onLinks fun l => { l with modulesToDr := l.modulesToDr ++ [(m, r)] }) := by
  obtain ⟨⟨hdirs, hway, hposted⟩, hright⟩ := hs
  refine ⟨⟨hdirs, fun h hh => ?_, hposted⟩, hright⟩
  rcases List.mem_append.1 hh with hh | hh
  · exact hway h hh
  · rw [List.mem_singleton.1 hh]
    exact hr

/-! ### Notices, hand-overs, wake edges and ticks at the resolver (R57 to R60, R69, R117, R119, R123) -/

/-- An event at the resolver ends with all demand in agreement, where what it writes keeps suppliers below their dependents
and gives no module that is not watched a wake request or an idle count (R58, R116). -/
theorem demandSound_atResolver (hs : DemandSound s) {g : Dr → Dr} (ho : (g s.dr).Ordered) (hk : (g s.dr).WakeKept)
    (ns : List (Domain × DrPosting)) : DemandSound ((s.onDr g).finishDr ns) := by
  obtain ⟨⟨hdirs, hway, hposted⟩, -⟩ := hs
  exact demandSound_finishDr (s := s.onDr g) ⟨fun k => ⟨(hdirs k).1, ho k, (hdirs k).2.2⟩, hway, hposted⟩ hk ns

theorem demandSound_takeClaimed (hs : DemandSound s) (m : Module) (l : Level) : DemandSound (s.takeClaimed m l) := by
  unfold State.takeClaimed
  exact demandSound_atResolver hs hs.1.ordered hs.2.wakeKept _

theorem demandSound_takeState (hs : DemandSound s) (m : Module) (v : DrView) : DemandSound (s.takeState m v) := by
  unfold State.takeState
  exact demandSound_atResolver hs hs.1.ordered hs.2.wakeKept _

theorem demandSound_takeDrFault (hs : DemandSound s) (m : Module) : DemandSound (s.takeDrFault m) := by
  unfold State.takeDrFault
  split
  · exact hs
  · exact demandSound_atResolver hs hs.1.ordered hs.2.wakeKept _

/-- The record of a SET MODULE hand-over is written at the resolver (R57). -/
theorem demandSound_takeModuleDr (hs : DemandSound s) {m : Module} {r : DirRecord} (hr : supplierBelow m r) :
    DemandSound (s.takeModuleDr m r) := by
  rw [State.takeModuleDr_eq]
  refine demandSound_atResolver (demandSound_postToEngines hs _) (Dr.withModule_ordered hs.1.ordered hr) ?_ _
  exact hs.2.wakeKept

/-- A rise on a watched module sets the wake request of that module only (R117). -/
theorem demandSound_takeWakeRise (hs : DemandSound s) (m : Module) : DemandSound (s.takeWakeRise m) := by
  unfold State.takeWakeRise
  dsimp only
  split
  · rename_i hw
    refine demandSound_atResolver hs hs.1.ordered (fun k hk => ?_) _
    have hne : k ≠ m := fun h => by rw [h] at hk; cases hk.symm.trans hw
    simp only [set_get_ne _ _ hne]
    exact hs.2.wakeKept k hk
  · split
    · exact demandSound_engineKept.alert _ _ _ hs
    · exact hs

/-- A fall on a watched module loads the idle count of that module only (R119). -/
theorem demandSound_takeWakeFall (hs : DemandSound s) (m : Module) : DemandSound (s.takeWakeFall m) := by
  unfold State.takeWakeFall
  split
  · rename_i hw
    refine demandSound_atResolver hs hs.1.ordered (fun k hk => ?_) _
    have hne : k ≠ m := fun h => by rw [h] at hk; cases hk.symm.trans (Bool.and_eq_true_iff.1 hw).1
    simp only [set_get_ne _ _ hne]
    exact hs.2.wakeKept k hk
  · exact hs

/-- A tick starts no idle count (R123). -/
theorem demandSound_takeDrTick (hs : DemandSound s) : DemandSound s.takeDrTick := by
  unfold State.takeDrTick
  refine demandSound_atResolver (demandSound_onTicks hs _) hs.1.ordered (fun k hk => ?_) _
  obtain ⟨hreq, hidle⟩ := hs.2.wakeKept k hk
  refine ⟨hreq, ?_⟩
  simp only [State.onTicks_dr, Fin.getElem_fin, Vector.getElem_ofFn] at hidle ⊢
  rw [hidle]
  rfl

/-! ### The claim table, time and edges (R8, R45, R48) -/

/-- Claims change and claimed levels are worked out; directories stay (R8). -/
theorem demandSound_relevel (hs : DemandSound s) {f : Ct → Ct} (hf : (f s.ct).dir = s.ct.dir) :
    DemandSound (s.onCt f).relevel :=
  hs.of_same (by rw [State.relevel_ct]; exact hf) (by rw [State.relevel_dr]; rfl) (by rw [State.relevel_engines]; rfl)
    (by rw [State.relevel_links]; rfl) (by rw [State.relevel_links]; rfl)

theorem demandSound_takeCtTick (hs : DemandSound s) : DemandSound s.takeCtTick := by
  unfold State.takeCtTick
  exact demandSound_relevel (demandSound_onTicks hs _) s.ct.takeTick_sameBase.dir

theorem demandSound_takeEngineTick (hs : DemandSound s) (e : Domain) : DemandSound (s.takeEngineTick e) :=
  demandSound_engineKept.takeEngineTick e hs

theorem demandSound_takeWaitingTicks (hs : DemandSound s) : DemandSound s.takeWaitingTicks :=
  State.takeWaitingTicks_keeps DemandSound (fun _ => demandSound_takeCtTick) (fun _ => demandSound_takeDrTick)
    (fun _ e h => demandSound_takeEngineTick h e) hs

theorem demandSound_issueTick (hs : DemandSound s) (d : Nat) : DemandSound (s.countUnits d).issueTick := hs

theorem demandSound_endPeriod (hs : DemandSound s) : DemandSound s.endPeriod := by
  unfold State.endPeriod
  exact demandSound_issueTick (demandSound_takeWaitingTicks hs) _

theorem demandSound_elapse (hs : DemandSound s) (d : Nat) : DemandSound (s.elapse d) :=
  State.elapse_keeps DemandSound (fun _ _ h => h) (fun _ => demandSound_endPeriod) d hs

theorem demandSound_takeEdge (hs : DemandSound s) (g : Edge) : DemandSound (s.takeEdge g) := by
  unfold State.takeEdge
  split
  · split
    · exact demandSound_engineKept.takeReadyRise _ hs
    · exact demandSound_engineKept.takeReadyFall _ hs
  · split
    · exact demandSound_takeWakeRise hs _
    · exact demandSound_takeWakeFall hs _
  · split
    · exact demandSound_engineKept.takePowerRise _ hs
    · exact demandSound_engineKept.takePowerFall _ hs

theorem demandSound_takeWaiting (hs : DemandSound s) (g : Edge) : DemandSound (s.takeWaiting g) :=
  demandSound_takeEdge (s := s.onPins _) hs g

/-- A pin is driven and its edges are taken (R45). -/
theorem demandSound_edges (hs : DemandSound s) (g : Edge) (p : Pin) : DemandSound ((s.drive g).takeEdges p) := by
  have hdrive : DemandSound (s.drive g) := by
    unfold State.drive
    split
    · exact hs
    · exact hs
  exact State.awake_keeps DemandSound _ hdrive fun _ =>
    foldl_keeps DemandSound State.takeWaiting (fun _ k hu => demandSound_takeWaiting hu k) _ _ hdrive

theorem demandSound_idle (hs : DemandSound s) : DemandSound s.idle := by
  unfold State.idle
  split
  · exact hs
  · refine State.awake_keeps DemandSound _ hs fun _ => ?_
    split
    · exact demandSound_takeWaiting hs _
    · exact demandSound_elapse hs 1

end

end Sys2Proof.Machine


namespace Sys2Proof.Machine

/-! ### The bodies of the requests (chapters 2, 8, 9, 10 and 11)

Claims, lists, port items and bare postings are no part of the condition: a body that changes these alone leaves what the
condition reads as it stands, and the condition's own proof serves again. -/

/-- A request's body keeps suppliers below their dependents, and demand in agreement. -/
abbrev KeepsDemand (body : Port → Request → State → State × Answer) : Prop :=
  ∀ p r s, DemandSound s → DemandSound (body p r s).1

theorem demandSound_onPort {s : State} (hs : DemandSound s) (p : Port) (f : PortRec → PortRec) :
    DemandSound (s.onPort p f) := hs

/-- The claim table changes in claims, lists and port items; its directory stays. -/
theorem demandSound_onCt {s : State} (hs : DemandSound s) {f : Ct → Ct} (hf : (f s.ct).dir = s.ct.dir) :
    DemandSound (s.onCt f) := hs.of_same hf rfl rfl rfl rfl

theorem placeBody_keepsDemand : KeepsDemand placeBody := fun p r s hs => by
  unfold placeBody
  split
  · repeat' split
    all_goals exact hs
  · exact hs

theorem changeBody_keepsDemand : KeepsDemand changeBody := fun p r s hs => by
  unfold changeBody
  repeat' split
  all_goals exact hs

theorem renewBody_keepsDemand : KeepsDemand renewBody := fun p r s hs => by
  unfold renewBody
  repeat' split
  all_goals exact hs

theorem releaseBody_keepsDemand : KeepsDemand releaseBody := fun p r s hs => by
  unfold releaseBody
  repeat' split
  · exact hs
  · exact hs
  · exact demandSound_relevel hs (Ct.freeSlot_sameBase ..).dir

theorem queryClaimBody_keepsDemand : KeepsDemand queryClaimBody := fun p r s hs => by
  unfold queryClaimBody
  split <;> exact hs

theorem queryModuleBody_keepsDemand : KeepsDemand queryModuleBody := fun p r s hs => by
  unfold queryModuleBody
  split <;> exact hs

theorem queryDomainBody_keepsDemand : KeepsDemand queryDomainBody := fun p r s hs => by
  unfold queryDomainBody
  split <;> exact hs

theorem browseBody_keepsDemand : KeepsDemand browseBody := fun p r s hs => by
  unfold browseBody
  split <;> exact hs

theorem browseNextBody_keepsDemand : KeepsDemand browseNextBody := fun p r s hs => by
  unfold browseNextBody
  repeat' split
  all_goals exact hs

theorem takeChangeBody_keepsDemand : KeepsDemand takeChangeBody := fun p r s hs => by
  unfold takeChangeBody
  split <;> exact hs

theorem takeAlertBody_keepsDemand : KeepsDemand takeAlertBody := fun p r s hs => by
  unfold takeAlertBody
  split <;> exact hs

theorem setNotifyBody_keepsDemand : KeepsDemand setNotifyBody := fun p r s hs => by
  unfold setNotifyBody
  split <;> exact hs

theorem detachBody_keepsDemand : KeepsDemand detachBody := fun p r s hs => by
  unfold detachBody
  exact demandSound_onPort (demandSound_relevel hs (Ct.detached_sameBase p s.ct).dir) ..

/-- A posting that carries no record. -/
theorem demandSound_postBare {s : State} (hs : DemandSound s) (e : Domain) {n : CtPosting} (hn : n.record = none) :
    DemandSound (s.postEngine e n) :=
  demandSound_postEngine hs e fun r hr => by
    rw [hn] at hr
    cases hr

theorem restartBody_keepsDemand : KeepsDemand restartBody := fun p r s hs => by
  unfold restartBody
  split
  · exact hs
  · repeat' split
    all_goals try exact hs
    exact demandSound_postBare (demandSound_onCt hs rfl) _ rfl

theorem clearModuleFaultBody_keepsDemand : KeepsDemand clearModuleFaultBody := fun p r s hs => by
  unfold clearModuleFaultBody
  repeat' split
  all_goals try exact hs
  all_goals exact demandSound_postBare hs _ rfl

/-! ### The control port's bodies -/

/-- What a control-port body keeps as HP0, its command keeps for every port (R158). -/
theorem controlOnly_keepsDemand {body : Request → State → State × Answer}
    (h : ∀ r s, DemandSound s → DemandSound (body r s).1) : KeepsDemand (controlOnly body) := fun p r s hs => by
  unfold controlOnly
  split
  · exact h r s hs
  · exact hs

/-- A record that passes the supplier check names a supplier of lower index (R58, R168). -/
theorem State.supplierFits_below {s : State} {m : Module} {d : DirRecord} (h : s.supplierFits m d = true) :
    supplierBelow m d := fun u hu => by
  unfold State.supplierFits at h
  rw [Option.mem_def.1 hu, Option.all_some, Bool.and_eq_true, decide_eq_true_eq] at h
  exact h.1

theorem setModuleBody_keepsDemand : KeepsDemand (controlOnly setModuleBody) :=
  controlOnly_keepsDemand fun r s hs => by
    unfold setModuleBody
    split
    · exact hs
    · rename_i m d _
      split
      · exact hs
      · split
        · exact hs
        · rename_i hfits
          split
          · exact hs
          · have hd : supplierBelow m d := State.supplierFits_below (by simpa using hfits)
            have hrecord (n : Module × DirRecord) (hn : n ∈ (CtPosting.setModule m d s.ct.dir[m].domain).record) :
                supplierBelow n.1 n.2 := by
              cases hn
              exact hd
            have hold := demandSound_postEngine
              (demandSound_sendModule (demandSound_writeCt hs hd) hd) s.ct.dir[m].domain hrecord
            dsimp only
            split
            · exact hold
            · exact demandSound_postEngine hold _ hrecord

theorem setModuleTimingBody_keepsDemand : KeepsDemand (controlOnly setModuleTimingBody) :=
  controlOnly_keepsDemand fun r s hs => by
    unfold setModuleTimingBody
    repeat' split
    · exact hs
    · exact hs
    · exact hs
    · exact demandSound_postBare hs _ rfl

theorem setDomainBody_keepsDemand : KeepsDemand (controlOnly setDomainBody) :=
  controlOnly_keepsDemand fun r s hs => by
    unfold setDomainBody
    repeat' split
    · exact hs
    · exact hs
    · exact demandSound_postBare hs _ rfl

theorem setKeepOnBody_keepsDemand : KeepsDemand (controlOnly setKeepOnBody) :=
  controlOnly_keepsDemand fun r s hs => by
    unfold setKeepOnBody
    split <;> exact hs

theorem setQuotaBody_keepsDemand : KeepsDemand (controlOnly setQuotaBody) :=
  controlOnly_keepsDemand fun r s hs => by
    unfold setQuotaBody
    repeat' split
    all_goals exact hs

theorem setTickBody_keepsDemand : KeepsDemand (controlOnly setTickBody) :=
  controlOnly_keepsDemand fun r s hs => by
    unfold setTickBody
    dsimp only
    split <;> exact hs

theorem evictBody_keepsDemand : KeepsDemand (controlOnly evictBody) :=
  controlOnly_keepsDemand fun r s hs => by
    unfold evictBody
    split
    · exact hs
    · split
      · exact demandSound_relevel hs (Ct.die_sameBase ..).dir
      · exact demandSound_relevel hs (Ct.freeSlot_sameBase ..).dir

theorem retireAllBody_keepsDemand : KeepsDemand (controlOnly retireAllBody) :=
  controlOnly_keepsDemand fun _ s hs => demandSound_relevel hs (Ct.emptied_sameBase s.ct).dir

theorem clearDomainFaultBody_keepsDemand : KeepsDemand (controlOnly clearDomainFaultBody) :=
  controlOnly_keepsDemand fun r s hs => by
    unfold clearDomainFaultBody
    repeat' split
    · exact hs
    · exact hs
    · exact hs
    · exact hs
    · exact demandSound_postBare hs _ rfl

/-! ### Every request command -/

/-- A request command serves a body that keeps demand in agreement. -/
theorem exec_request_keepsDemand {c : Instr} {code : Byte} (h : requestCode c = some code) :
    ∃ (accepts : Byte → Bool) (body : Port → Request → State → State × Answer),
      KeepsDemand body ∧ ∀ s, exec c s = .next (s.serve accepts body) := by
  cases c with
  | place => exact ⟨_, _, placeBody_keepsDemand, fun _ => rfl⟩
  | change => exact ⟨_, _, changeBody_keepsDemand, fun _ => rfl⟩
  | renew => exact ⟨_, _, renewBody_keepsDemand, fun _ => rfl⟩
  | release => exact ⟨_, _, releaseBody_keepsDemand, fun _ => rfl⟩
  | queryClaim => exact ⟨_, _, queryClaimBody_keepsDemand, fun _ => rfl⟩
  | queryModule => exact ⟨_, _, queryModuleBody_keepsDemand, fun _ => rfl⟩
  | queryDomain => exact ⟨_, _, queryDomainBody_keepsDemand, fun _ => rfl⟩
  | browse => exact ⟨_, _, browseBody_keepsDemand, fun _ => rfl⟩
  | browseNext => exact ⟨_, _, browseNextBody_keepsDemand, fun _ => rfl⟩
  | takeChange => exact ⟨_, _, takeChangeBody_keepsDemand, fun _ => rfl⟩
  | takeAlert => exact ⟨_, _, takeAlertBody_keepsDemand, fun _ => rfl⟩
  | setNotify => exact ⟨_, _, setNotifyBody_keepsDemand, fun _ => rfl⟩
  | restart => exact ⟨_, _, restartBody_keepsDemand, fun _ => rfl⟩
  | clearModuleFault => exact ⟨_, _, clearModuleFaultBody_keepsDemand, fun _ => rfl⟩
  | detach => exact ⟨_, _, detachBody_keepsDemand, fun _ => rfl⟩
  | setModule => exact ⟨_, _, setModuleBody_keepsDemand, fun _ => rfl⟩
  | setModuleTiming => exact ⟨_, _, setModuleTimingBody_keepsDemand, fun _ => rfl⟩
  | setDomain => exact ⟨_, _, setDomainBody_keepsDemand, fun _ => rfl⟩
  | setKeepOn => exact ⟨_, _, setKeepOnBody_keepsDemand, fun _ => rfl⟩
  | setQuota => exact ⟨_, _, setQuotaBody_keepsDemand, fun _ => rfl⟩
  | setTick => exact ⟨_, _, setTickBody_keepsDemand, fun _ => rfl⟩
  | evict => exact ⟨_, _, evictBody_keepsDemand, fun _ => rfl⟩
  | retireAll => exact ⟨_, _, retireAllBody_keepsDemand, fun _ => rfl⟩
  | clearDomainFault => exact ⟨_, _, clearDomainFaultBody_keepsDemand, fun _ => rfl⟩
  | _ => cases h

theorem demandSound_serve {accepts : Byte → Bool} {body : Port → Request → State → State × Answer}
    (h : KeepsDemand body) {s : State} (hs : DemandSound s) : DemandSound (s.serve accepts body) :=
  State.serve_keeps DemandSound hs fun p r _ _ _ => demandSound_onPort (h p r (s.takeRequest p) hs) ..

end Sys2Proof.Machine


namespace Sys2Proof.Machine

/-! ### Every event: a notice, a posting, a hand-over, a timer or an edge -/

section
variable {s t : State} {e : Domain} {m : Module} {x : SwDom} (hs : DemandSound s)
include hs

theorem DemandSound.awake {f : State → State} (h : DemandSound (f s)) : DemandSound (s.awake f) :=
  State.awake_keeps DemandSound f hs fun _ => h

theorem execLevelNotice_demandSound (h : execLevelNotice e s = .next t) : DemandSound t := by
  cases h
  refine hs.awake ?_
  split
  · rename_i m y g _
    exact demandSound_onCt (s := s.dropCtNotice e) hs (s.ct.takeLevel_dir m y g)
  all_goals exact hs

theorem execRestartStartNotice_demandSound (h : execRestartStartNotice e s = .next t) : DemandSound t := by
  cases h
  refine hs.awake ?_
  split
  · rename_i m _
    exact demandSound_onCt (s := s.dropCtNotice e) hs (s.ct.takeRestartStart_sameBase m).dir
  all_goals exact hs

theorem execRestartEndNotice_demandSound (h : execRestartEndNotice e s = .next t) : DemandSound t := by
  cases h
  refine hs.awake ?_
  split <;> exact hs

theorem execFaultNoticeAtCt_demandSound (h : execFaultNoticeAtCt e s = .next t) : DemandSound t := by
  cases h
  refine hs.awake ?_
  split
  · exact demandSound_relevel (s := s.dropCtNotice e) hs Ct.takeFault_sameBase.dir
  all_goals exact hs

theorem execSetTickHandover_demandSound (h : execSetTickHandover s = .next t) : DemandSound t := by
  cases h
  refine hs.awake ?_
  split <;> exact hs

theorem execLeaseCountdown_demandSound (h : execLeaseCountdown s = .next t) : DemandSound t := by
  cases h
  refine hs.awake ?_
  split
  · exact demandSound_takeCtTick hs
  · exact hs

theorem execLapse_demandSound {sl : Slot} (h : execLapse sl s = .next t) : DemandSound t := by
  cases h
  refine hs.awake ?_
  split
  · exact demandSound_takeCtTick hs
  · exact hs

theorem execClaimedLevelNotice_demandSound (h : execClaimedLevelNotice m s = .next t) : DemandSound t := by
  cases h
  refine hs.awake ?_
  split
  · exact hs
  · exact demandSound_takeClaimed (demandSound_levelsLeft hs _) ..

theorem execStateNotice_demandSound (h : execStateNotice e s = .next t) : DemandSound t := by
  cases h
  refine hs.awake ?_
  split
  · exact demandSound_takeState (s := s.dropDrNotice e) hs ..
  all_goals exact hs

theorem execFaultNoticeAtDr_demandSound (h : execFaultNoticeAtDr e s = .next t) : DemandSound t := by
  cases h
  refine hs.awake ?_
  split
  · exact demandSound_takeDrFault (s := s.dropDrNotice e) hs ..
  all_goals exact hs

/-- The oldest record of a module leaves its way to the resolver and is written there (R57). -/
theorem execSetModuleHandoverDr_demandSound (h : execSetModuleHandoverDr m s = .next t) : DemandSound t := by
  cases h
  refine hs.awake ?_
  split
  · exact hs
  · rename_i r rest hk
    obtain ⟨before, after, hl, rfl, -⟩ := takeKey_eq_some hk
    exact demandSound_takeModuleDr (demandSound_modulesLeft hs hl) (hs.1.onWay (by rw [hl]; simp))

theorem execSetKeepOnHandover_demandSound (h : execSetKeepOnHandover x s = .next t) : DemandSound t := by
  cases h
  refine hs.awake ?_
  split
  · exact hs
  · exact demandSound_atResolver (demandSound_keepOnLeft hs _) hs.1.ordered hs.2.wakeKept _

theorem execIdleCountTick_demandSound (h : execIdleCountTick s = .next t) : DemandSound t := by
  cases h
  refine hs.awake ?_
  split
  · exact demandSound_takeDrTick hs
  · exact hs

theorem execIdleCountRunsOut_demandSound (h : execIdleCountRunsOut m s = .next t) : DemandSound t := by
  cases h
  refine hs.awake ?_
  split
  · exact demandSound_takeDrTick hs
  · exact hs

theorem execTargetPostingAtEngine_demandSound (h : execTargetPostingAtEngine e s = .next t) : DemandSound t := by
  cases h
  refine hs.awake ?_
  split
  · exact demandSound_engineKept.settleEngine _ (demandSound_engineKept.takeTarget (s := s.dropDrPosting e) _ _ _ hs)
  all_goals exact hs

theorem execRestartPosting_demandSound (h : execRestartPosting e s = .next t) : DemandSound t := by
  cases h
  refine hs.awake ?_
  split
  · exact demandSound_engineKept.settleEngine _
      (demandSound_engineKept.takeRestartPosting _ _ _ (demandSound_dropCtPosting hs e))
  all_goals exact hs

theorem execNeedPosting_demandSound (h : execNeedPosting x s = .next t) : DemandSound t := by
  cases h
  refine hs.awake ?_
  split
  · exact demandSound_engineKept.settleEngine _
      (demandSound_engineKept.onDom (s := s.dropDrPosting x.domain) _ _ hs)
  all_goals exact hs

theorem execSetModuleTimingHandover_demandSound (h : execSetModuleTimingHandover e s = .next t) : DemandSound t := by
  cases h
  refine hs.awake ?_
  split
  · exact demandSound_engineKept.onMod _ _ (demandSound_dropCtPosting hs e)
  all_goals exact hs

theorem execSetDomainHandover_demandSound (h : execSetDomainHandover x s = .next t) : DemandSound t := by
  cases h
  refine hs.awake ?_
  split
  · exact demandSound_engineKept.onDom _ _ (demandSound_dropCtPosting hs x.domain)
  all_goals exact hs

/-- The record that the engines write stood at the head of a stream to them (R74). -/
theorem execSetModuleHandoverEngine_demandSound (h : execSetModuleHandoverEngine e s = .next t) : DemandSound t := by
  cases h
  refine hs.awake ?_
  split
  · rename_i m r old hp
    split
    · dsimp only
      refine demandSound_engineKept.takeModule _ _ (demandSound_writeEngines ?_ (hs.1.ofPosting hp))
      split
      · exact demandSound_dropCtPosting hs _
      · exact demandSound_dropCtPosting (demandSound_dropCtPosting hs _) _
    · exact hs
  all_goals exact hs

theorem execHold_demandSound (h : execHold e s = .next t) : DemandSound t := by
  cases h
  refine hs.awake ?_
  split
  · exact hs
  · split
    · exact demandSound_engineKept.settleEngine _ (demandSound_engineKept.finishStep _ _ (demandSound_elapse hs _))
    · exact hs

theorem execAckTimeout_demandSound (h : execAckTimeout e s = .next t) : DemandSound t := by
  cases h
  refine hs.awake ?_
  split
  · exact hs
  · split
    · exact demandSound_engineKept.settleEngine _ (demandSound_engineKept.faultModule _ _ _ (demandSound_elapse hs _))
    · exact hs

theorem execSupplierFaultNotice_demandSound (h : execSupplierFaultNotice e s = .next t) : DemandSound t := by
  cases h
  refine hs.awake ?_
  split
  · refine demandSound_engineKept.settleEngine _ ?_
    split
    · exact demandSound_engineKept.faultModule (s := s.dropDrPosting e) _ _ _ hs
    · exact hs
  all_goals exact hs

theorem execSupplierClearNotice_demandSound (h : execSupplierClearNotice e s = .next t) : DemandSound t := by
  cases h
  refine hs.awake ?_
  split
  · refine demandSound_engineKept.settleEngine _ ?_
    split
    · exact demandSound_engineKept.releaseModule (s := s.dropDrPosting e) _ _ hs
    · exact hs
  all_goals exact hs

theorem execModuleClear_demandSound (h : execModuleClear e s = .next t) : DemandSound t := by
  cases h
  refine hs.awake ?_
  split
  · refine demandSound_engineKept.settleEngine _ ?_
    split
    · exact demandSound_engineKept.releaseModule _ _ (demandSound_dropCtPosting hs e)
    · exact demandSound_dropCtPosting hs e
  all_goals exact hs

theorem execDomainClear_demandSound (h : execDomainClear x s = .next t) : DemandSound t := by
  cases h
  refine hs.awake ?_
  split
  · dsimp only
    split
    · exact demandSound_engineKept.settleEngine _ (demandSound_engineKept.releaseDomainModules _
        (demandSound_engineKept.onDom _ _ (demandSound_dropCtPosting hs x.domain)))
    · exact demandSound_dropCtPosting hs x.domain
  all_goals exact hs

theorem execRampTimeout_demandSound (h : execRampTimeout x s = .next t) : DemandSound t := by
  cases h
  refine hs.awake ?_
  split
  · exact demandSound_engineKept.settleEngine _ (demandSound_engineKept.faultDomain _ _ (demandSound_elapse hs _))
  · exact hs

theorem execOffTimeout_demandSound (h : execOffTimeout x s = .next t) : DemandSound t := by
  cases h
  refine hs.awake ?_
  split
  · exact demandSound_engineKept.settleEngine _ (demandSound_engineKept.faultDomain _ _ (demandSound_elapse hs _))
  · exact hs

theorem execLingerTick_demandSound (h : execLingerTick e s = .next t) : DemandSound t := by
  cases h
  refine hs.awake ?_
  split
  · exact demandSound_takeEngineTick hs e
  · exact hs

theorem execLingerRunsOut_demandSound (h : execLingerRunsOut x s = .next t) : DemandSound t := by
  cases h
  refine hs.awake ?_
  split
  · exact demandSound_takeEngineTick hs _
  · exact hs

theorem execAlertPostingReachesPort_demandSound {p : Port} {j : Subject} {r : Reason}
    (h : execAlertPostingReachesPort p j r s = .next t) : DemandSound t := by
  cases h
  refine hs.awake ?_
  split <;> exact hs

theorem execFrameBegin_demandSound {p : Port} (h : execFrameBegin p s = .next t) : DemandSound t := by
  cases h
  exact demandSound_onPort hs ..

theorem demandSound_classify (p : Port) (bytes : List Byte) : DemandSound (s.classify p bytes) := by
  unfold State.classify
  split
  · exact hs
  · repeat' split
    all_goals exact hs

theorem execFrameEnd_demandSound {p : Port} {bits : List Bool} (h : execFrameEnd p bits s = .next t) :
    DemandSound t := by
  cases h
  split
  · exact hs
  · exact demandSound_onPort hs ..
  · exact demandSound_classify (demandSound_onPort hs ..) ..

end

/-- Device reset leaves no module present and nothing on its way (R25, R73). -/
theorem execDeviceResetAsserted_demandSound {s t : State} (h : execDeviceResetAsserted s = .next t) : DemandSound t := by
  cases h
  exact ⟨State.reset_supplierOrder, State.reset_demandRight⟩

/-! ### Every command and every step -/

theorem exec_demandSound {c : Instr} {s t : State} (hs : DemandSound s) (h : exec c s = .next t) : DemandSound t := by
  have edge {g : Edge} {p : Pin} (he : exec c s = .next ((s.drive g).takeEdges p)) : DemandSound t := by
    cases he.symm.trans h
    exact demandSound_edges hs g p
  cases hcode : requestCode c with
  | some code =>
    obtain ⟨accepts, body, hb, he⟩ := exec_request_keepsDemand hcode
    cases (he s).symm.trans h
    exact demandSound_serve hb hs
  | none =>
    cases c with
    | badCommand => cases h; exact demandSound_serve (fun _ _ _ hu => hu) hs
    | deviceResetAsserted => exact execDeviceResetAsserted_demandSound h
    | deviceResetReleased => cases h; exact hs
    | frameBegin p => exact execFrameBegin_demandSound hs h
    | frameEnd p bits => exact execFrameEnd_demandSound hs h
    | levelNotice e => exact execLevelNotice_demandSound hs h
    | restartStartNotice e => exact execRestartStartNotice_demandSound hs h
    | restartEndNotice e => exact execRestartEndNotice_demandSound hs h
    | faultNoticeAtCt e => exact execFaultNoticeAtCt_demandSound hs h
    | tick => cases h; exact hs.awake (demandSound_endPeriod hs)
    | setTickHandover => exact execSetTickHandover_demandSound hs h
    | leaseCountdown => exact execLeaseCountdown_demandSound hs h
    | lapse sl => exact execLapse_demandSound hs h
    | claimedLevelNotice m => exact execClaimedLevelNotice_demandSound hs h
    | stateNotice e => exact execStateNotice_demandSound hs h
    | faultNoticeAtDr e => exact execFaultNoticeAtDr_demandSound hs h
    | setModuleHandoverDr m => exact execSetModuleHandoverDr_demandSound hs h
    | setModuleHandoverEngine e => exact execSetModuleHandoverEngine_demandSound hs h
    | setKeepOnHandover x => exact execSetKeepOnHandover_demandSound hs h
    | setModuleTimingHandover e => exact execSetModuleTimingHandover_demandSound hs h
    | setDomainHandover x => exact execSetDomainHandover_demandSound hs h
    | mwakeRise m => exact edge rfl
    | mwakeFall m => exact edge rfl
    | idleCountTick => exact execIdleCountTick_demandSound hs h
    | idleCountRunsOut m => exact execIdleCountRunsOut_demandSound hs h
    | targetPostingAtEngine e => exact execTargetPostingAtEngine_demandSound hs h
    | needPosting x => exact execNeedPosting_demandSound hs h
    | restartPosting e => exact execRestartPosting_demandSound hs h
    | takeEntry e => cases h; exact hs.awake (demandSound_engineKept.settleEngine e hs)
    | hold e => exact execHold_demandSound hs h
    | mrdyRise m => exact edge rfl
    | mrdyFall m => exact edge rfl
    | ackTimeout e => exact execAckTimeout_demandSound hs h
    | supplierFaultNotice e => exact execSupplierFaultNotice_demandSound hs h
    | supplierClearNotice e => exact execSupplierClearNotice_demandSound hs h
    | moduleClear e => exact execModuleClear_demandSound hs h
    | domainClear x => exact execDomainClear_demandSound hs h
    | dpgRise x => exact edge rfl
    | dpgFall x => exact edge rfl
    | rampTimeout x => exact execRampTimeout_demandSound hs h
    | offTimeout x => exact execOffTimeout_demandSound hs h
    | lingerTick e => exact execLingerTick_demandSound hs h
    | lingerRunsOut x => exact execLingerRunsOut_demandSound hs h
    | alertPostingReachesPort p j r => exact execAlertPostingReachesPort_demandSound hs h
    | _ => cases hcode

/-- Settles O58: an event at the resolver ends with everything worked out from the highest index down, which suppliers
below their dependents make an agreement; every other command leaves the resolver, and writes a record only where its
supplier is below it. -/
theorem everyStepKeepsDemandWorkedOut : Obligations.EveryStepKeepsDemandWorkedOut := by
  unfold Obligations.EveryStepKeepsDemandWorkedOut
  intro s t hs h
  unfold step at h
  cases hp : s.pending with
  | nil =>
    rw [hp] at h
    cases h
    exact demandSound_idle hs
  | cons c rest =>
    rw [hp] at h
    exact exec_demandSound (s := { s with pending := rest }) hs h

end Sys2Proof.Machine


namespace Sys2Proof.Machine

/-! ### QUERY MODULE (R71, Table 10-6) -/

theorem moduleByte2_eq (d : DirRecord) :
    moduleByte2 d = BitVec.ofNat 8
      (128 * d.present.toNat + 64 * d.wakeUsed.toNat + 16 * d.domain.val + 4 * d.owner.val) := by
  have h : ∀ (a b : Bool) (x : Domain) (p : Port),
      BitVec.ofBool a ++ BitVec.ofBool b ++ BitVec.ofNat 2 x.val ++ BitVec.ofNat 2 p.val ++ (0 : BitVec 2) =
        BitVec.ofNat 8 (128 * a.toNat + 64 * b.toNat + 16 * x.val + 4 * p.val) := by decide
  exact h ..

theorem moduleByte3_eq (d : DirRecord) :
    moduleByte3 d = match d.supplier with
      | none => 0
      | some u => BitVec.ofNat 8 (128 + u.val) := by
  have h : ∀ u : Module, BitVec.ofBool true ++ (0 : BitVec 2) ++ BitVec.ofNat 5 u.val = BitVec.ofNat 8 (128 + u.val) := by
    decide
  unfold moduleByte3
  cases d.supplier with
  | none => rfl
  | some u => exact h u

theorem moduleByte4_eq (q : ModRec) (eff : Level) :
    moduleByte4 q eff = BitVec.ofNat 8
      (64 * eff.val + 32 * q.stepping.toNat + 16 * q.woken.toNat + 8 * q.armed.toNat + (physStateCode q.state).toNat) := by
  have h : ∀ (l : Level) (a b c : Bool) (x : BitVec 3),
      levelCode l ++ BitVec.ofBool a ++ BitVec.ofBool b ++ BitVec.ofBool c ++ x =
        BitVec.ofNat 8 (64 * l.val + 32 * a.toNat + 16 * b.toNat + 8 * c.toNat + x.toNat) := by decide
  exact h ..

theorem moduleByte5_eq (cause : Option ModCause) (mark : Option Port) (claimed : Level) :
    moduleByte5 cause mark claimed = BitVec.ofNat 8
      (64 * claimed.val + 32 * mark.isSome.toNat + 8 * (mark.getD 0).val + (modCauseCode cause).toNat) := by
  have h : ∀ (l : Level) (a : Bool) (p : Port) (x : BitVec 3),
      levelCode l ++ BitVec.ofBool a ++ BitVec.ofNat 2 p.val ++ x =
        BitVec.ofNat 8 (64 * l.val + 32 * a.toNat + 8 * p.val + x.toNat) := by decide
  exact h ..

/-- QUERY MODULE changes nothing (R71). -/
theorem queryModuleBody_unchanged (p : Port) (r : Request) (s : State) :
    queryModuleBody p r s = (s, (queryModuleBody p r s).2) := by
  unfold queryModuleBody; split <;> rfl

/-- Settles O20: the body leaves the state, and the bytes it answers are the fields at their bits. -/
theorem queryModuleReportsEveryBlock : Obligations.QueryModuleReportsEveryBlock := by
  unfold Obligations.QueryModuleReportsEveryBlock
  intro s p r hs
  obtain ⟨hct, hlinks, hblocks, hans⟩ := served_unchanged hs (accepts := (· == codeQueryModule)) rfl
    (queryModuleBody_unchanged p r (s.takeRequest p))
  refine ⟨_, rfl, hct, hlinks, hblocks, fun hbad => ?_, fun m hm => ?_⟩
  · simp only [queryModuleBody, moduleOf_eq_none.2 hbad] at hans
    exact hans
  · simp only [queryModuleBody, moduleOf_eq_some.2 hm, State.moduleReport, moduleByte2_eq, moduleByte3_eq,
      moduleByte4_eq, moduleByte5_eq] at hans
    exact hans

end Sys2Proof.Machine


namespace Sys2Proof.Machine

/-! ### The operands of SET MODULE (R159, R168, Table 10-4) -/

theorem portOf_eq_none {b : Byte} : portOf b = none ↔ 4 ≤ b.toNat := by
  unfold portOf; split <;> simp <;> omega

/-- Bits 7 to 4 of byte 3 number the owner port. -/
theorem ownerNibble_toNat (b : Byte) : ((b.extractLsb' 4 4).setWidth 8).toNat = b.toNat / 16 := by
  have hb : b.toNat < 256 := b.isLt
  simp only [BitVec.toNat_setWidth, BitVec.extractLsb'_toNat, Nat.shiftRight_eq_div_pow]
  omega

theorem supplierOf_eq_none {b : Byte} : supplierOf b = none ↔ 32 ≤ b.toNat ∧ b.toNat ≠ 255 := by
  have habsent : b = 0xFF ↔ b.toNat = 255 := ⟨fun h => by rw [h]; rfl, fun h => BitVec.eq_of_toNat_eq h⟩
  unfold supplierOf
  by_cases hb : b = 0xFF
  · rw [if_pos hb]
    exact ⟨fun h => (by cases h), fun h => absurd (habsent.1 hb) h.2⟩
  · rw [if_neg hb, Option.map_eq_none_iff, moduleOf_eq_none]
    exact ⟨fun h => ⟨h, fun h' => hb (habsent.2 h')⟩, And.left⟩

theorem supplierOf_of_operand {b : Byte} {u : Option Module}
    (h : u = none ∧ b = 0xFF ∨ ∃ k, u = some k ∧ b.toNat = k.val) : supplierOf b = some u := by
  unfold supplierOf
  rcases h with ⟨rfl, hb⟩ | ⟨k, rfl, hk⟩
  · rw [if_pos hb]
  · have hne : b ≠ 0xFF := fun hb => by
      rw [hb] at hk
      exact absurd k.isLt (by rw [← hk]; decide)
    rw [if_neg hne, moduleOf_eq_some.2 hk]
    rfl

/-- The record that the operands spell, where each is in its range (Table 10-4). -/
theorem recordOf_eq_some {r : Request} {m : Module} {d : DirRecord} (hm : (r.byte 2).toNat = m.val)
    (hd : (r.byte 4).toNat = d.domain.val) (hp : (r.byte 3).toNat / 16 = d.owner.val)
    (hpresent : d.present = (r.byte 3).getLsbD 0) (hwake : d.wakeUsed = (r.byte 3).getLsbD 1)
    (hu : d.supplier = none ∧ r.byte 5 = 0xFF ∨ ∃ u, d.supplier = some u ∧ (r.byte 5).toNat = u.val) :
    recordOf r = some (m, d) := by
  unfold recordOf
  rw [moduleOf_eq_some.2 hm, domainOf_eq_some.2 hd, portOf_eq_some.2 ((ownerNibble_toNat _).trans hp),
    supplierOf_of_operand hu]
  dsimp only
  rw [← hpresent, ← hwake]

/-- An operand out of range (R168 check 1). -/
theorem recordOf_eq_none {r : Request}
    (h : 32 ≤ (r.byte 2).toNat ∨ 4 ≤ (r.byte 4).toNat ∨ 64 ≤ (r.byte 3).toNat ∨
      (32 ≤ (r.byte 5).toNat ∧ (r.byte 5).toNat ≠ 255)) : recordOf r = none := by
  have hsome (h1 : moduleOf (r.byte 2) ≠ none) (h2 : domainOf (r.byte 4) ≠ none)
      (h3 : portOf (((r.byte 3).extractLsb' 4 4).setWidth 8) ≠ none) (h4 : supplierOf (r.byte 5) ≠ none) : False := by
    rw [Ne, moduleOf_eq_none] at h1
    rw [Ne, domainOf_eq_none] at h2
    rw [Ne, portOf_eq_none, ownerNibble_toNat] at h3
    rw [Ne, supplierOf_eq_none] at h4
    omega
  unfold recordOf
  split
  · rename_i h1 h2 h3 h4
    exact (hsome (by simp [h1]) (by simp [h2]) (by simp [h3]) (by simp [h4])).elim
  · rfl

/-! ### The checks of SET MODULE (R168) -/

theorem State.quiet_iff {s : State} {m : Module} :
    s.quiet m = true ↔
      (s.modAt m).state = .off ∧ (s.modAt m).stepping = false ∧ s.hasEntry (s.engineOf m) m = false ∧
        (s.modAt m).pendingRestart = none ∧ (∀ sl : Slot, ∀ c ∈ s.ct.claimAt sl, c.module ≠ m) ∧
        s.ct.restartMark[m] = none := by
  unfold State.quiet
  simp only [Bool.and_eq_true, decide_eq_true_eq, Bool.not_eq_true', Option.isNone_iff_eq_none, List.all_eq_true,
    mem_allSlots, Option.any_eq_false, decide_eq_false_iff_not, and_assoc, forall_const]
  simp only [Option.mem_def, ne_eq]

theorem dependentsIn_isEmpty {dir : Vector DirRecord 32} {m : Module} :
    (dependentsIn dir m).isEmpty = true ↔ ∀ k : Module, dir[k].present = true → dir[k].supplier ≠ some m := by
  rw [List.isEmpty_iff, dependentsIn, List.filter_eq_nil_iff]
  simp only [mem_allModules, Bool.and_eq_true, decide_eq_true_eq, not_and, true_implies, ne_eq]

theorem State.supplierFits_iff {s : State} {m : Module} {d : DirRecord} :
    s.supplierFits m d = true ↔
      ∀ u ∈ d.supplier, u < m ∧ (d.present = true → s.ct.dir[u].present = true) := by
  unfold State.supplierFits
  rw [Option.all_eq_true]
  simp only [Bool.and_eq_true, decide_eq_true_eq, Bool.or_eq_true, Bool.not_eq_true', Option.mem_def]
  refine forall₂_congr fun u _ => and_congr_right fun _ => ?_
  cases d.present <;> simp

/-! ### What SET MODULE does (R57, R74, R169) -/

section
variable {s : State} {r : Request} {m : Module} {d : DirRecord}

theorem setModuleBody_outOfRange (h : recordOf r = none) : setModuleBody r s = (s, .refused .badArgument) := by
  simp only [setModuleBody, h]

theorem setModuleBody_notQuiet (h : recordOf r = some (m, d)) (hq : s.quiet m = false) :
    setModuleBody r s = (s, .refused .inUse) := by
  simp only [setModuleBody, h, hq, Bool.not_false, if_true]

/-- The supplier check and the check of an absence that present dependents forbid (R168 checks 3 and 4). -/
abbrev State.recordFits (s : State) (m : Module) (d : DirRecord) : Prop :=
  (∀ u ∈ d.supplier, u < m ∧ (d.present = true → s.ct.dir[u].present = true)) ∧
    (d.present = false → ∀ k : Module, s.ct.dir[k].present = true → s.ct.dir[k].supplier ≠ some m)

theorem State.absenceForbidden_iff :
    (!d.present && !(dependentsIn s.ct.dir m).isEmpty) = true ↔
      ¬(d.present = false → ∀ k : Module, s.ct.dir[k].present = true → s.ct.dir[k].supplier ≠ some m) := by
  rw [← dependentsIn_isEmpty]
  cases d.present <;> simp

theorem setModuleBody_unfit (h : recordOf r = some (m, d)) (hq : s.quiet m = true) (hf : ¬s.recordFits m d) :
    setModuleBody r s = (s, .refused .badArgument) := by
  simp only [setModuleBody, h, hq, Bool.not_true, Bool.false_eq_true, if_false]
  by_cases hsup : s.supplierFits m d = true
  · have habsence := State.absenceForbidden_iff.2 fun hk => hf ⟨State.supplierFits_iff.1 hsup, hk⟩
    rw [if_neg (by rw [hsup]; exact Bool.false_ne_true), if_pos habsence]
  · rw [if_pos (by rw [Bool.not_eq_true'] ; exact Bool.eq_false_iff.2 hsup)]

/-- The streams to the engines once the record has set out for the engine of the domain that the module leaves and, where
it is another, of the one it joins (R74). -/
def State.recordSent (s : State) (m : Module) (d : DirRecord) : Vector (List CtPosting) 4 :=
  let old := s.ct.dir[m].domain
  let left := modifyAt s.links.ctToEngine old (· ++ [.setModule m d old])
  if d.domain = old then left else modifyAt left d.domain (· ++ [.setModule m d old])

theorem State.recordSent_get (s : State) (m : Module) (d : DirRecord) (e : Domain) :
    (s.recordSent m d)[e] = s.links.ctToEngine[e] ++
      if e = s.ct.dir[m].domain ∨ e = d.domain then [.setModule m d s.ct.dir[m].domain] else [] := by
  unfold State.recordSent
  dsimp only
  generalize s.ct.dir[m].domain = old
  by_cases hsame : d.domain = old
  · rw [if_pos hsame, modifyAt_get, hsame]
    by_cases ho : e = old
    · rw [if_pos ho, if_pos (.inl ho)]
    · rw [if_neg ho, if_neg (not_or.2 ⟨ho, ho⟩), List.append_nil]
  · rw [if_neg hsame, modifyAt_get, modifyAt_get]
    by_cases hd : e = d.domain
    · rw [if_pos hd, if_neg fun ho => hsame (hd.symm.trans ho), if_pos (.inr hd)]
    · rw [if_neg hd]
      by_cases ho : e = old
      · rw [if_pos ho, if_pos (.inl ho)]
      · rw [if_neg ho, if_neg (not_or.2 ⟨ho, hd⟩), List.append_nil]

/-- A request that passes its checks writes the record and hands it over (R57, R74, R169). -/
theorem setModuleBody_passes (h : recordOf r = some (m, d)) (hq : s.quiet m = true) (hf : s.recordFits m d) :
    setModuleBody r s =
      ((s.onCt fun ct => { ct with dir := ct.dir.set m d }).onLinks fun l =>
          { l with modulesToDr := l.modulesToDr ++ [(m, d)], ctToEngine := s.recordSent m d },
        { status := .ok, b2 := byteOf m.val }) := by
  have habsence : ¬(!d.present && !(dependentsIn s.ct.dir m).isEmpty) = true := fun hk =>
    State.absenceForbidden_iff.1 hk hf.2
  simp only [setModuleBody, h, hq, State.supplierFits_iff.2 hf.1, Bool.not_true, Bool.false_eq_true, if_false,
    if_neg habsence]
  unfold State.recordSent
  by_cases hsame : d.domain = s.ct.dir[m].domain
  · simp only [if_pos hsame]
    rfl
  · simp only [if_neg hsame]
    rfl

/-- No block but the claim table changes. -/
theorem setModuleBody_sameBlocks (r : Request) (s : State) : SameBlocks s (setModuleBody r s).1 := by
  unfold setModuleBody
  repeat' split
  all_goals try exact ⟨rfl, rfl, rfl, rfl, rfl, rfl, rfl⟩
  dsimp only
  split <;> exact ⟨rfl, rfl, rfl, rfl, rfl, rfl, rfl⟩

end

/-- Settles O30: the body's checks in their order, and the record written and handed over where all pass. -/
theorem setModuleHandsTheRecordOver : Obligations.SetModuleHandsTheRecordOver := by
  unfold Obligations.SetModuleHandsTheRecordOver
  intro s r hs
  have refused {st : Status} (h : setModuleBody r (s.takeRequest 0) = (s.takeRequest 0, .refused st)) :
      (s.serve (· == codeSetModule) (controlOnly setModuleBody)).ct = s.ct ∧
        (s.serve (· == codeSetModule) (controlOnly setModuleBody)).links = s.links ∧
        Answered s (s.serve (· == codeSetModule) (controlOnly setModuleBody)) 0 r { status := st } id := by
    obtain ⟨hct, hlinks, -, hans⟩ := served_unchanged hs (accepts := (· == codeSetModule)) rfl
      (body := controlOnly setModuleBody) h
    exact ⟨hct, hlinks, hans⟩
  refine ⟨_, rfl, ?_, fun hbad => refused (setModuleBody_outOfRange (recordOf_eq_none hbad)), ?_⟩
  · rw [serve_of_serving hs (accepts := (· == codeSetModule)) rfl (body := controlOnly setModuleBody) rfl]
    exact setModuleBody_sameBlocks r (s.takeRequest 0)
  · intro m d hm hd hp hpresent hwake hu quiet fits
    have hrec := recordOf_eq_some hm hd hp hpresent hwake hu
    have hquiet : (s.takeRequest 0).quiet m = true ↔ quiet := State.quiet_iff
    refine ⟨fun hq => refused (setModuleBody_notQuiet hrec (Bool.eq_false_iff.2 (hquiet.not.2 hq))),
      fun hq hf => refused (setModuleBody_unfit hrec (hquiet.2 hq) hf), fun hq hf => ?_⟩
    have hserve := serve_of_serving hs (accepts := (· == codeSetModule)) rfl (body := controlOnly setModuleBody)
      (setModuleBody_passes hrec (hquiet.2 hq) hf)
    have hbyte : byteOf m.val = r.byte 2 := by rw [byteOf, ← hm, BitVec.ofNat_toNat, BitVec.setWidth_eq]
    rw [hbyte] at hserve
    intro old
    rw [hserve]
    exact ⟨set_get_self .., fun k hk => set_get_ne _ _ hk, rfl, rfl, State.recordSent_get s m d, rfl,
      answered_of_taken rfl rfl⟩

end Sys2Proof.Machine


namespace Sys2Proof.Machine

/-! ### What an engine writes in an event about one module (R80 to R95) -/

/-- What an engine writes about one module: the module's record, what the engine itself holds, and the notices and
alerts that set out. -/
structure EngineWrite where
  mod : ModRec
  eng : EngineRec
  ct : List CtNotice
  dr : List DrNotice
  alerts : List Alert

/-- Engine `e` makes a write about module `m`. -/
def State.write (s : State) (e : Domain) (m : Module) (w : EngineWrite) : State :=
  { s with
    engines := { s.engines with mods := s.engines.mods.set m w.mod, recs := s.engines.recs.set e w.eng }
    links := { s.links with
      toCt := modifyAt s.links.toCt e (· ++ w.ct)
      toDr := modifyAt s.links.toDr e (· ++ w.dr)
      alerts := s.links.alerts ++ w.alerts } }

/-- The write that changes nothing. -/
def State.kept (s : State) (e : Domain) (m : Module) : EngineWrite :=
  { mod := s.modAt m, eng := s.engines.recs[e], ct := [], dr := [], alerts := [] }

@[simp] theorem State.kept_eng (s : State) (e : Domain) (m : Module) : (s.kept e m).eng = s.engines.recs[e] := rfl

theorem vector_set_self {α : Type} {n : Nat} (v : Vector α n) (i : Fin n) : v.set i v[i] = v :=
  modifyAt_id v i

theorem modifyAt_append_nil {α : Type} {n : Nat} (v : Vector (List α) n) (i : Fin n) :
    modifyAt v i (· ++ []) = v := by
  have hid : (fun l : List α => l ++ []) = id := funext List.append_nil
  rw [hid, modifyAt_id]

theorem modifyAt_append {α : Type} {n : Nat} (v : Vector (List α) n) (i : Fin n) (a b : List α) :
    modifyAt (modifyAt v i (· ++ a)) i (· ++ b) = modifyAt v i (· ++ (a ++ b)) := by
  apply Vector.ext
  intro j hj
  simp only [modifyAt_getElem]
  split <;> simp

theorem State.write_kept (s : State) (e : Domain) (m : Module) : s.write e m (s.kept e m) = s := by
  have hm : s.engines.mods.set m (s.modAt m) = s.engines.mods := vector_set_self ..
  have hr : s.engines.recs.set e s.engines.recs[e] = s.engines.recs := vector_set_self ..
  unfold State.write State.kept
  rw [hm, hr, modifyAt_append_nil, modifyAt_append_nil, List.append_nil]

section
variable (s : State) (e : Domain) (m : Module) (w : EngineWrite)

@[simp] theorem State.write_pins : (s.write e m w).pins = s.pins := rfl
@[simp] theorem State.write_dir : (s.write e m w).engines.dir = s.engines.dir := rfl
@[simp] theorem State.write_engineDir (k : Module) : (s.write e m w).engineDir k = s.engineDir k := rfl
@[simp] theorem State.write_engineOf (k : Module) : (s.write e m w).engineOf k = s.engineOf k := rfl
@[simp] theorem State.write_modAt : (s.write e m w).modAt m = w.mod := set_get_self ..
@[simp] theorem State.write_recs : (s.write e m w).engines.recs[e] = w.eng := set_get_self ..

theorem State.write_modAt_ne {k : Module} (h : k ≠ m) : (s.write e m w).modAt k = s.modAt k := set_get_ne _ _ h
theorem State.write_recs_ne {d : Domain} (h : d ≠ e) : (s.write e m w).engines.recs[d] = s.engines.recs[d] :=
  set_get_ne _ _ h

theorem State.write_links : (s.write e m w).links = { s.links with
    toCt := modifyAt s.links.toCt e (· ++ w.ct)
    toDr := modifyAt s.links.toDr e (· ++ w.dr)
    alerts := s.links.alerts ++ w.alerts } := rfl

/-- A write touches the engines and the streams in flight only. -/
theorem State.write_onlyEngines : OnlyEngines s (s.write e m w) ∧ (s.write e m w).timebase = s.timebase := by
  simp [OnlyEngines, State.write]

/-- A write touches the record of its module and what its engine holds only. -/
theorem State.write_sameEngines : SameEngines s (s.write e m w) e m :=
  ⟨rfl, rfl, fun _ h => s.write_modAt_ne e m w h, fun _ h => s.write_recs_ne e m w h⟩

/-! #### The updates, made after a write -/

theorem State.write_onMod (f : ModRec → ModRec) :
    (s.write e m w).onMod m f = s.write e m { w with mod := f w.mod } := by
  simp [State.write, State.onMod, State.onEngines, modifyAt]

theorem State.write_onRec (f : EngineRec → EngineRec) :
    (s.write e m w).onRec e f = s.write e m { w with eng := f w.eng } := by
  simp [State.write, State.onRec, State.onEngines, modifyAt]

theorem State.write_noticeCt (n : CtNotice) :
    (s.write e m w).noticeCt e n = s.write e m { w with ct := w.ct ++ [n] } := by
  simp only [State.write, State.noticeCt, State.onLinks, modifyAt_append]

theorem State.write_noticeDr (n : DrNotice) :
    (s.write e m w).noticeDr e n = s.write e m { w with dr := w.dr ++ [n] } := by
  simp only [State.write, State.noticeDr, State.onLinks, modifyAt_append]

theorem State.write_alert (p : Port) (j : Subject) (r : Reason) :
    (s.write e m w).alert p j r =
      s.write e m { w with alerts := w.alerts ++ [{ port := p, subject := j, reason := r }] } := by
  simp only [State.write, State.alert, State.onLinks, List.append_assoc]

end

/-! #### One update is a write -/

section
variable (s : State) (e : Domain) (m : Module)

theorem State.onMod_eq_write (f : ModRec → ModRec) :
    s.onMod m f = s.write e m { s.kept e m with mod := f (s.modAt m) } := by
  conv_lhs => rw [← s.write_kept e m, State.write_onMod]
  rfl

theorem State.onRec_eq_write (f : EngineRec → EngineRec) :
    s.onRec e f = s.write e m { s.kept e m with eng := f s.engines.recs[e] } := by
  conv_lhs => rw [← s.write_kept e m, State.write_onRec]
  rfl

end

end Sys2Proof.Machine


namespace Sys2Proof.Machine

/-! ### Steps and paths, as writes (R81 to R85, R90 to R93, R135) -/

/-- A step begins (R90 to R92). -/
def EngineWrite.begun (w : EngineWrite) (st : LineStep) : EngineWrite :=
  { w with mod := w.mod.driveStep st, eng := { w.eng with timer := w.mod.stepTime st } }

/-- A record changes, and its notices set out (R93). -/
def EngineWrite.changed (w : EngineWrite) (m : Module) (new : ModRec) : EngineWrite :=
  { w with mod := new, ct := w.ct ++ levelNoticeFor m w.mod new, dr := w.dr ++ stateNoticeFor m w.mod new }

/-- A step completes (R93). -/
def EngineWrite.completed (w : EngineWrite) (m : Module) (st : LineStep) (t : Target) (last : Bool) : EngineWrite :=
  { w with eng := { w.eng with timer := none } }.changed m (w.mod.afterStep st t last)

/-- The comparison with the wanted target (R81, R82). -/
def EngineWrite.compared (w : EngineWrite) (m : Module) : EngineWrite :=
  { w with
    mod := { w.mod with pendingRestart := none }
    eng := { w.eng with queue := w.eng.queue ++ entryAfter m w.mod } }

/-- A transition ends, and a restart that reached its end is done (R81, R93, R135). -/
def EngineWrite.ended (w : EngineWrite) (m : Module) (restart : Option Port) : EngineWrite :=
  { mod := { w.mod with stepping := false }
    eng := { w.eng with work := .idle, timer := none }
    ct := w.ct ++ doneNotices m restart
    dr := w.dr
    alerts := w.alerts ++ doneAlerts m restart : EngineWrite }.compared m

/-- A step waits: its transition is the engine's work (R86). -/
def EngineWrite.waiting (w : EngineWrite) (tr : Transition) : EngineWrite :=
  { w with eng := { w.eng with work := .transition tr } }

/-- The steps of a path from the next one's begin, with the module's MRDY at `ready` (R83, R93). -/
def EngineWrite.path (ready : Bool) (m : Module) (t : Target) (restart : Option Port) :
    List LineStep → EngineWrite → EngineWrite
  | [], w => w.ended m restart
  | st :: rest, w =>
    if completesAtBegin ready st then
      EngineWrite.path ready m t restart rest ((w.begun st).completed m st t rest.isEmpty)
    else (w.begun st).waiting { module := m, steps := st :: rest, target := t, restart := restart }

section
variable (s : State) (e : Domain) (m : Module) (w : EngineWrite)

theorem State.write_noticeChange (old new : ModRec) :
    (s.write e m w).noticeChange e m old new =
      s.write e m { w with ct := w.ct ++ levelNoticeFor m old new, dr := w.dr ++ stateNoticeFor m old new } := by
  unfold State.noticeChange levelNoticeFor stateNoticeFor
  dsimp only
  have hlevel : (if old.level = new.level then s.write e m w else
      (s.write e m w).noticeCt e (.level m new.level new.gen)) =
      s.write e m { w with ct := w.ct ++ if old.level = new.level then [] else [.level m new.level new.gen] } := by
    split
    · rw [List.append_nil]
    · exact s.write_noticeCt ..
  rw [hlevel]
  split
  · rw [List.append_nil]
  · exact s.write_noticeDr ..

theorem State.write_beginStep (st : LineStep) : (s.write e m w).beginStep e m st = s.write e m (w.begun st) := by
  rw [State.beginStep, State.write_onMod, State.write_onRec, State.write_modAt]
  rfl

theorem State.write_completeStep (st : LineStep) (t : Target) (last : Bool) :
    (s.write e m w).completeStep e m st t last = s.write e m (w.completed m st t last) := by
  simp only [State.completeStep, State.write_onRec, State.write_onMod, State.write_modAt, State.write_noticeChange]
  rfl

theorem State.write_compareWanted : (s.write e m w).compareWanted e m = s.write e m (w.compared m) := by
  simp only [State.compareWanted, State.write_modAt, State.appendEntry, State.write_onRec, State.write_onMod]
  unfold EngineWrite.compared entryAfter ModRec.stands
  by_cases h : w.mod.view = w.mod.wanted.view ∧ w.mod.pendingRestart = none
  · rw [if_pos h, if_pos (by simp [h]), List.append_nil, ← h.2]
  · rw [if_neg h, if_neg (by simpa using h)]

theorem State.write_endTransition (restart : Option Port) :
    (s.write e m w).endTransition e m restart = s.write e m (w.ended m restart) := by
  cases restart with
  | none =>
    simp only [State.endTransition, State.write_onRec, State.write_onMod, State.write_compareWanted,
      EngineWrite.ended, doneNotices, doneAlerts, List.append_nil, Option.isSome_none, Bool.false_eq_true, if_false]
  | some p =>
    simp only [State.endTransition, State.write_noticeCt, State.write_alert, State.write_onRec, State.write_onMod,
      State.write_compareWanted]
    rfl

/-- A path is run by one write. -/
theorem State.write_runSteps (t : Target) (restart : Option Port) (steps : List LineStep) :
    State.runSteps e m t restart steps (s.write e m w) =
      s.write e m (w.path s.pins.mrdy[m] m t restart steps) := by
  induction steps generalizing w with
  | nil => exact s.write_endTransition ..
  | cons st rest ih =>
    unfold State.runSteps EngineWrite.path
    simp only [State.write_pins, State.write_beginStep, State.write_completeStep, ih, State.write_onRec]
    split <;> rfl

/-- The step in flight completes and the path goes on, in one write (R93). -/
theorem State.finishStep_eq_write {tr : Transition} {st : LineStep} {rest : List LineStep} (h : tr.steps = st :: rest) :
    s.finishStep e tr = s.write e tr.module
      (((s.kept e tr.module).completed tr.module st tr.target rest.isEmpty).path s.pins.mrdy[tr.module] tr.module
        tr.target tr.restart rest) := by
  conv_lhs => rw [← s.write_kept e tr.module]
  simp only [State.finishStep, h, State.write_completeStep, State.write_runSteps]

end

end Sys2Proof.Machine


namespace Sys2Proof.Machine

/-! ### Entries and restarts, as writes (R84, R86, R105, R132 to R134) -/

section
variable (s : State) (e : Domain) (m : Module)

/-- The module's entry has left the queue. -/
def State.dequeued : EngineWrite :=
  { s.kept e m with eng := { s.engines.recs[e] with queue := withoutEntry m s.engines.recs[e].queue } }

/-- The module's entry has left the queue, and its transition begins (R86). -/
def State.started : EngineWrite :=
  { s.dequeued e m with mod := { s.modAt m with stepping := true } }

theorem State.dequeue_eq_write :
    (s.onRec e fun g => { g with queue := withoutEntry m g.queue }) = s.write e m (s.dequeued e m) :=
  s.onRec_eq_write e m _

theorem State.write_startPath (w : EngineWrite) (t : Target) (restart : Option Port) (steps : List LineStep) :
    (s.write e m w).startPath e m t restart steps =
      s.write e m ({ w with mod := { w.mod with stepping := true } }.path s.pins.mrdy[m] m t restart steps) := by
  rw [State.startPath, State.write_onMod, State.write_runSteps]

theorem State.write_failRestart (w : EngineWrite) (p : Port) :
    (s.write e m w).failRestart e m p = s.write e m { w with
      ct := w.ct ++ [.restartEnd m]
      alerts := w.alerts ++ [{ port := p, subject := .module m, reason := .restartFailed }] } := by
  rw [State.failRestart, State.write_noticeCt, State.write_alert]

/-- Leaving LINGER touches the domains only (R105). -/
theorem State.leaveLinger_eq :
    s.leaveLinger e = { s with engines := { s.engines with doms := (s.leaveLinger e).engines.doms } } := by
  unfold State.leaveLinger
  cases switchedOf e <;> rfl

theorem State.leaveLinger_doms (x : SwDom) :
    (s.leaveLinger e).engines.doms[x] =
      if x.domain = e ∧ s.engines.doms[x].state = .linger then
        { s.engines.doms[x] with state := .on, lingerCount := none }
      else s.engines.doms[x] := by
  unfold State.leaveLinger
  split
  · rename_i hx
    have : x.domain ≠ e := fun h => by rw [switchedOf_eq_some.2 h] at hx; cases hx
    rw [if_neg (fun h => this h.1)]
  · rename_i y hy
    obtain rfl := switchedOf_eq_some.1 hy
    have hdom : (s.onDom y fun r => if r.state = .linger then { r with state := .on, lingerCount := none }
        else r).engines.doms[x] = if x = y then _ else s.engines.doms[x] := modifyAt_get ..
    rw [hdom]
    by_cases hxy : x = y
    · subst hxy; simp
    · rw [if_neg hxy, if_neg]
      exact fun h => hxy (Fin.succ_injective _ h.1)

/-- A lingering domain is ON again, and one that was ON stays ON (R105). -/
theorem State.leaveLinger_domState {s : State} {e : Domain} (h : s.domState e = .on ∨ s.domState e = .linger) :
    (s.leaveLinger e).domState e = .on := by
  unfold State.domState at h ⊢
  cases hx : switchedOf e with
  | none => rfl
  | some x =>
    rw [hx] at h
    dsimp only at h ⊢
    rw [State.leaveLinger_doms]
    rcases h with h | h
    · rw [if_neg (fun hl => by rw [h] at hl; cases hl.2), h]
    · rw [if_pos ⟨switchedOf_eq_some.1 hx, h⟩]

theorem State.write_leaveLinger (w : EngineWrite) :
    (s.write e m w).leaveLinger e = (s.leaveLinger e).write e m w := by
  unfold State.leaveLinger
  cases switchedOf e <;> rfl

/-! #### What the taking of an entry writes -/

variable {s e}

theorem State.restartPasses_write {w : EngineWrite} {t : Target} (hw : w.mod = s.modAt m) :
    (s.write e m w).restartPasses m t = s.restartPasses m t := by
  have hmods : (s.write e m w).modAt = s.modAt := funext fun k => by
    by_cases hk : k = m
    · rw [hk, State.write_modAt, hw]
    · exact s.write_modAt_ne e m w hk
  simp only [State.restartPasses, hmods, State.write_dir]

variable {en : Entry}

/-- An entry of kind up is taken: a lingering domain is ON again, and the path begins (R86, R105). -/
theorem State.takeEntry_up {steps : List LineStep} (hr : en.restart = none)
    (hp : planOf (s.modAt en.module) en.target = .up steps) :
    s.takeEntry e en = (s.leaveLinger e).write e en.module
      ((s.started e en.module).path s.pins.mrdy[en.module] en.module en.target none steps) := by
  have hplan : planOf ((s.write e en.module (s.dequeued e en.module)).modAt en.module) en.target = .up steps := by
    rw [State.write_modAt]; exact hp
  have hpins : (s.leaveLinger e).pins = s.pins := by rw [s.leaveLinger_eq e]
  simp only [State.takeEntry, s.dequeue_eq_write, hr, hplan]
  rw [State.write_leaveLinger, State.write_startPath, hpins]
  rfl

/-- An entry of kind down is taken (R86). -/
theorem State.takeEntry_down {steps : List LineStep} (hr : en.restart = none)
    (hp : planOf (s.modAt en.module) en.target = .down steps) :
    s.takeEntry e en = s.write e en.module
      ((s.started e en.module).path s.pins.mrdy[en.module] en.module en.target none steps) := by
  have hplan : planOf ((s.write e en.module (s.dequeued e en.module)).modAt en.module) en.target = .down steps := by
    rw [State.write_modAt]; exact hp
  simp only [State.takeEntry, s.dequeue_eq_write, hr, hplan]
  rw [State.write_startPath]
  rfl

/-- A flag-only entry is taken: the flags change and the comparison is made, in one event (R84). -/
theorem State.takeEntry_flagOnly (hr : en.restart = none)
    (hp : planOf (s.modAt en.module) en.target = .flagOnly) :
    s.takeEntry e en = s.write e en.module
      (((s.dequeued e en.module).changed en.module
        { s.modAt en.module with armed := en.target.view.armed, woken := en.target.view.woken }).compared en.module) := by
  have hplan : planOf ((s.write e en.module (s.dequeued e en.module)).modAt en.module) en.target = .flagOnly := by
    rw [State.write_modAt]; exact hp
  simp only [State.takeEntry, s.dequeue_eq_write, hr, hplan]
  rw [State.flagOnly, State.write_modAt, State.write_onMod, State.write_noticeChange, State.write_compareWanted]
  rfl

/-- A restart that passes its check begins its path (R132 to R134). -/
theorem State.takeEntry_restarts {p : Port} (hr : en.restart = some p)
    (hp : s.restartPasses en.module en.target = true) :
    s.takeEntry e en = s.write e en.module
      ({ s.started e en.module with ct := [.restartStart en.module] }.path s.pins.mrdy[en.module] en.module en.target
        (some p) (restartPath (s.modAt en.module).state)) := by
  simp only [State.takeEntry, s.dequeue_eq_write, hr]
  rw [State.takeRestart, State.restartPasses_write _ rfl, if_pos hp, State.write_noticeCt, State.write_startPath,
    State.write_modAt]
  rfl

/-- A restart that fails its check ends; toward a target that does not stand, an entry joins at the tail (R132). -/
theorem State.takeEntry_fails {p : Port} (hr : en.restart = some p)
    (hp : s.restartPasses en.module en.target = false) :
    s.takeEntry e en = s.write e en.module
      { s.dequeued e en.module with
        eng := { s.engines.recs[e] with
          queue := withoutEntry en.module s.engines.recs[e].queue ++
            if (s.modAt en.module).view = en.target.view then []
            else [{ module := en.module, target := en.target, restart := none }] }
        ct := [.restartEnd en.module]
        alerts := [{ port := p, subject := .module en.module, reason := .restartFailed }] } := by
  simp only [State.takeEntry, s.dequeue_eq_write, hr]
  rw [State.takeRestart, State.restartPasses_write _ rfl, if_neg (by rw [hp]; exact Bool.false_ne_true),
    State.write_failRestart]
  simp only [State.write_modAt, ModRec.stands, decide_eq_true_eq, State.appendEntry, State.write_onRec]
  by_cases h : (s.modAt en.module).view = en.target.view
  · rw [if_pos h, if_pos (c := (s.dequeued e en.module).mod.view = _) h, List.append_nil]
    rfl
  · rw [if_neg h, if_neg (c := (s.dequeued e en.module).mod.view = _) h]
    rfl

end

/-! ### A module enters FAULT, or is let go of, as a write (R74, R95, R136, R139) -/

section
variable (s : State) (e : Domain) (m : Module)

/-- What engine `e` holds once module `m` is out of it: no entry, no transition of it in flight (R95). -/
def EngineRec.without (g : EngineRec) (m : Module) : EngineRec :=
  { queue := withoutEntry m g.queue
    work := workWithout m g.work
    timer := if workWithout m g.work = g.work then g.timer else none }

theorem State.letGo_eq : s.letGo e m = s.onRec e (·.without m) := by
  refine congrArg (s.onRec e) (funext fun g => ?_)
  obtain ⟨queue, work, timer⟩ := g
  cases work with
  | idle => rfl
  | ramp => rfl
  | transition t =>
    by_cases h : t.module = m
    · simp [EngineRec.without, workWithout, h]
    · simp [EngineRec.without, workWithout, h]

/-- Module `m` enters FAULT (R95, R136, R139). -/
def State.faulting (c : ModCause) : EngineWrite :=
  { mod := (s.modAt m).faulted c
    eng := s.engines.recs[e].without m
    ct := .fault m c :: (if (s.restartStanding e m).isSome then [.restartEnd m] else [])
    dr := [.fault m c]
    alerts := faultAlerts s m ++ failureAlerts m (s.restartStanding e m) }

theorem State.write_alertFault (w : EngineWrite) :
    (s.write e m w).alertFault m = s.write e m { w with alerts := w.alerts ++ faultAlerts s m } := by
  have howner : (s.write e m w).dr.dir[m].owner = s.dr.dir[m].owner := rfl
  unfold State.alertFault faultAlerts
  simp only [howner, State.write_alert]
  split
  · rfl
  · rw [List.append_assoc]; rfl

theorem State.faultModule_eq_write (c : ModCause) : s.faultModule e m c = s.write e m (s.faulting e m c) := by
  have hrec : (s.onMod m (·.faulted c)).letGo e m =
      s.write e m { s.kept e m with mod := (s.modAt m).faulted c, eng := s.engines.recs[e].without m } := by
    rw [s.onMod_eq_write e m, State.letGo_eq, State.write_onRec]
    rfl
  have hfault : s.faultModule e m c =
      match s.restartStanding e m with
      | none => ((((s.onMod m (·.faulted c)).letGo e m).noticeCt e (.fault m c)).noticeDr e (.fault m c)).alertFault m
      | some p =>
        (((((s.onMod m (·.faulted c)).letGo e m).noticeCt e (.fault m c)).noticeDr e (.fault m c)).alertFault
          m).failRestart e m p := rfl
  rw [hfault, hrec, State.write_noticeCt, State.write_noticeDr, State.write_alertFault]
  unfold State.faulting
  cases s.restartStanding e m with
  | none => simp only [failureAlerts, List.append_nil]; rfl
  | some p => simp only [State.write_failRestart]; rfl

/-- Engine `e` lets go of a module that becomes OFF with nothing wanted (R74, R169). -/
def State.quieting : EngineWrite :=
  { s.kept e m with mod := (s.modAt m).quieted, eng := s.engines.recs[e].without m }

theorem State.quieted_eq_write : (s.letGo e m).onMod m (·.quieted) = s.write e m (s.quieting e m) := by
  rw [State.letGo_eq, s.onRec_eq_write e m, State.write_onMod]
  rfl

end

/-! ### Postings, as writes (R79 to R82, R131) -/

section
variable (s : State) (e : Domain) (m : Module)

/-- The queue after a target posting for a module at rest (R80). -/
def queueTowards (q : List Entry) (m : Module) (r : ModRec) (t : Target) : List Entry :=
  if q.any (fun en => decide (en.module = m)) then
    (q.map fun en => if en.module = m then { en with target := t } else en).filter fun en =>
      !(decide (en.module = m) && en.restart.isNone && r.stands t)
  else if r.stands t then q
  else q ++ [{ module := m, target := t, restart := none }]

/-- The queue after a restart posting for a module at rest (R131). -/
def queueRestart (q : List Entry) (m : Module) (r : ModRec) (p : Port) : List Entry :=
  if q.any (fun en => decide (en.module = m)) then
    q.map fun en => if en.module = m then { en with restart := some p } else en
  else q ++ [{ module := m, target := r.wanted, restart := some p }]

/-- A target posting for a module of the engine, present and not in FAULT (R79 to R81). -/
theorem State.takeTarget_eq_write {t : Target} (h : s.faultable e m = true) :
    s.takeTarget e m t = s.write e m { s.kept e m with
      mod := { s.modAt m with wanted := t }
      eng := { s.engines.recs[e] with
        queue := if (s.modAt m).stepping = true then s.engines.recs[e].queue
          else queueTowards s.engines.recs[e].queue m (s.modAt m) t } } := by
  rw [State.takeTarget, if_pos h, s.onMod_eq_write e m]
  simp only [State.write_modAt]
  split
  · rfl
  · have hstands : ({ s.modAt m with wanted := t } : ModRec).stands t = (s.modAt m).stands t := rfl
    simp only [State.queueTarget, State.hasEntry, State.write_recs, State.write_modAt, State.appendEntry,
      State.write_onRec, queueTowards, State.kept_eng, hstands]
    by_cases hany : s.engines.recs[e].queue.any (fun en => decide (en.module = m)) = true
    · rw [if_pos hany, if_pos hany]
    · rw [if_neg hany, if_neg hany]
      split <;> rfl

/-- A target posting for another module is discarded (R74, R79). -/
theorem State.takeTarget_discarded {t : Target} (h : ¬s.faultable e m = true) : s.takeTarget e m t = s := by
  rw [State.takeTarget, if_neg h]

variable {s e m} in
/-- A restart posting for a module in FAULT fails (R131). -/
theorem State.takeRestartPosting_fails {p : Port} (hp : (s.engineDir m).present = true)
    (hd : (s.engineDir m).domain = e) (hf : (s.modAt m).state = .fault) :
    s.takeRestartPosting e m p = s.failRestart e m p := by
  rw [State.takeRestartPosting, if_pos (by simp [hp, hd]), if_pos hf]

variable {s e m} in
/-- A restart posting for another module of the engine (R82, R131). -/
theorem State.takeRestartPosting_eq_write {p : Port} (hp : (s.engineDir m).present = true)
    (hd : (s.engineDir m).domain = e) (hf : (s.modAt m).state ≠ .fault) :
    s.takeRestartPosting e m p = s.write e m
      (if (s.modAt m).stepping = true then { s.kept e m with mod := { s.modAt m with pendingRestart := some p } }
       else { s.kept e m with eng := { s.engines.recs[e] with
          queue := queueRestart s.engines.recs[e].queue m (s.modAt m) p } }) := by
  rw [State.takeRestartPosting, if_pos (by simp [hp, hd]), if_neg hf]
  split
  · exact s.onMod_eq_write ..
  · simp only [State.appendEntry, s.onRec_eq_write e m, State.hasEntry, queueRestart]
    split <;> rfl

end

end Sys2Proof.Machine


namespace Sys2Proof.Machine

/-! ### Soundness of the engines, without the power of the domains (R75, R76, R80, R99) -/

/-- The engines as a whole, but for which modules may be out of OFF. -/
abbrev EnginesSound (s : State) : Prop :=
  ModulesRight s ∧ QueuesRight s ∧ TransitionsRight s ∧ DomainsRight s ∧ RampsRight s ∧ TimersRight s

theorem EnginesRight.sound {s : State} (h : EnginesRight s) : EnginesSound s :=
  let ⟨h1, h2, h3, h4, h5, h6, _⟩ := h
  ⟨h1, h2, h3, h4, h5, h6⟩

theorem EnginesRight.power {s : State} (h : EnginesRight s) : PowerRight s :=
  let ⟨_, _, _, _, _, _, h7⟩ := h
  h7

theorem EnginesSound.right {s : State} (h : EnginesSound s) (hp : PowerRight s) : EnginesRight s :=
  let ⟨h1, h2, h3, h4, h5, h6⟩ := h
  ⟨h1, h2, h3, h4, h5, h6, hp⟩

/-- Soundness is about what the engines hold alone. -/
theorem enginesSound_of_engines {s t : State} (h : t.engines = s.engines) (hs : EnginesSound s) : EnginesSound t := by
  have hsame : EnginesSound { State.reset with engines := s.engines } := hs
  rw [← h] at hsame
  exact hsame

theorem powerRight_of_engines {s t : State} (h : t.engines = s.engines) (hs : PowerRight s) : PowerRight t := by
  have hsame : PowerRight { State.reset with engines := s.engines } := hs
  rw [← h] at hsame
  exact hsame

theorem enginesRight_of_engines {s t : State} (h : t.engines = s.engines) (hs : EnginesRight s) : EnginesRight t :=
  (enginesSound_of_engines h hs.sound).right (powerRight_of_engines h hs.power)

namespace EnginesSound

variable {s : State} (hs : EnginesSound s)
include hs

theorem modules : ModulesRight s := let ⟨h, _, _, _, _, _⟩ := hs; h
theorem queues : QueuesRight s := let ⟨_, h, _, _, _, _⟩ := hs; h
theorem transitions : TransitionsRight s := let ⟨_, _, h, _, _, _⟩ := hs; h
theorem domains : DomainsRight s := let ⟨_, _, _, h, _, _⟩ := hs; h
theorem ramps : RampsRight s := let ⟨_, _, _, _, h, _⟩ := hs; h
theorem timers : TimersRight s := let ⟨_, _, _, _, _, h⟩ := hs; h

end EnginesSound

/-! #### What soundness says of one module and one engine -/

theorem State.faultable_iff {s : State} {e : Domain} {m : Module} :
    s.faultable e m = true ↔
      (s.engineDir m).present = true ∧ (s.engineDir m).domain = e ∧ (s.modAt m).state ≠ .fault := by
  simp [State.faultable, and_assoc]

theorem State.engineOf_of_faultable {s : State} {e : Domain} {m : Module} (h : s.faultable e m = true) :
    s.engineOf m = e :=
  let ⟨_, hdomain, _⟩ := State.faultable_iff.1 h
  hdomain

theorem State.not_fault_of_faultable {s : State} {e : Domain} {m : Module} (h : s.faultable e m = true) :
    (s.modAt m).state ≠ .fault :=
  let ⟨_, _, hstate⟩ := State.faultable_iff.1 h
  hstate

theorem State.inFlight_eq_some {s : State} {e : Domain} {t : Transition} :
    s.inFlight e = some t ↔ s.engines.recs[e].work = .transition t := by
  unfold State.inFlight
  cases s.engines.recs[e].work <;> simp

theorem workWithout_eq_transition {m : Module} {w : Work} {t : Transition} :
    workWithout m w = .transition t ↔ w = .transition t ∧ t.module ≠ m := by
  cases w with
  | idle => simp [workWithout]
  | ramp => simp [workWithout]
  | transition u =>
    by_cases h : u.module = m
    · simp only [workWithout, h, if_true, reduceCtorEq, false_iff, not_and, not_not, Work.transition.injEq]
      rintro rfl; exact h
    · simp only [workWithout, h, if_false, Work.transition.injEq]
      constructor
      · rintro rfl; exact ⟨rfl, h⟩
      · exact And.left

theorem workWithout_eq_ramp {m : Module} {w : Work} : workWithout m w = .ramp ↔ w = .ramp := by
  cases w with
  | idle => simp [workWithout]
  | ramp => simp [workWithout]
  | transition u => by_cases h : u.module = m <;> simp [workWithout, h]

theorem workWithout_self {m : Module} {w : Work} (h : ∀ t, w = .transition t → t.module ≠ m) : workWithout m w = w := by
  cases w with
  | idle => rfl
  | ramp => rfl
  | transition t => rw [workWithout, if_neg (h t rfl)]

section
variable {s : State} (hs : EnginesSound s) {m : Module}
include hs

/-- Only the engine that owns a module has an entry of it, and only for a module at rest, not in FAULT (R80). -/
theorem EnginesSound.entry {d : Domain} {en : Entry} (h : en ∈ s.engines.recs[d].queue) :
    s.faultable d en.module = true ∧ (s.modAt en.module).stepping = false :=
  (hs.queues d).2 en h

/-- Nothing is wanted of an absent module. -/
theorem EnginesSound.unwanted (h : (s.engineDir m).present = false) : (s.modAt m).wanted = .off :=
  let ⟨_, habsent⟩ := hs.modules m
  let ⟨_, _, hwanted⟩ := habsent h
  hwanted

/-- The transition in flight is that of a module of the engine, which stands on its path (R75, R86). -/
theorem EnginesSound.flight {d : Domain} {t : Transition} (h : s.engines.recs[d].work = .transition t) :
    s.faultable d t.module = true ∧ (s.modAt t.module).stepping = true ∧ (s.modAt t.module).onPath t.steps = true :=
  hs.transitions.1 d t (State.inFlight_eq_some.2 h)

/-- A module that is not stepping has no transition in flight (R75). -/
theorem EnginesSound.not_in_flight (hm : (s.modAt m).stepping = false) (d : Domain) {t : Transition}
    (h : s.engines.recs[d].work = .transition t) : t.module ≠ m := by
  rintro rfl
  obtain ⟨-, hstep, -⟩ := hs.flight h
  rw [hstep] at hm
  cases hm

/-- A stepping module's transition is in flight at its engine (R75). -/
theorem EnginesSound.stepping_in_flight (h : (s.modAt m).stepping = true) :
    ∃ t, s.inFlight (s.engineOf m) = some t ∧ t.module = m := by
  have hany := hs.transitions.2 m h
  cases ht : s.inFlight (s.engineOf m) with
  | none => rw [ht] at hany; cases hany
  | some t => rw [ht] at hany; exact ⟨t, rfl, of_decide_eq_true hany⟩

end

/-! ### The rule of a write (R75 to R82, R86, R95) -/

/-- What a write leaves in flight at its engine: the module's own transition, where the engine had no other; or what was
in flight beside the module's, with the module at rest (R75, R86). -/
inductive EngineWrite.Flight (m : Module) (old : Work) (w : EngineWrite) : Prop where
  | steps (t : Transition) : w.eng.work = .transition t → t.module = m → w.mod.stepping = true →
      w.mod.onPath t.steps = true → workWithout m old = .idle → Flight m old w
  | rests : w.mod.stepping = false → w.eng.work = workWithout m old → Flight m old w

/-- A write of engine `e` about its module `m` that keeps the engines sound. -/
structure EngineWrite.Fits (w : EngineWrite) (s : State) (e : Domain) (m : Module) : Prop where
  domain : (s.engineDir m).domain = e
  right : w.mod.right
  absent : (s.engineDir m).present = false → w.mod.state = .off ∧ w.mod.stepping = false ∧ w.mod.wanted = .off
  once : (w.eng.queue.map (·.module)).Nodup
  others : ∀ en ∈ w.eng.queue, en.module ≠ m → ∃ o ∈ s.engines.recs[e].queue, o.module = en.module
  own : ∀ en ∈ w.eng.queue, en.module = m →
    (s.engineDir m).present = true ∧ w.mod.state ≠ .fault ∧ w.mod.stepping = false
  flight : w.Flight m s.engines.recs[e].work
  timer : w.eng.timer.isSome = true ↔ w.eng.work ≠ .idle

/-- A stepping module is not in FAULT (R95). -/
theorem ModRec.right.not_fault_of_stepping {r : ModRec} (h : r.right) (hstep : r.stepping = true) :
    r.state ≠ .fault := by
  obtain ⟨-, -, -, hfault, -⟩ := h
  intro hf
  rw [(hfault hf).2] at hstep
  cases hstep

/-- What the power of its domain leaves a module's record (R112). -/
abbrev ModRec.powered (r : ModRec) (d : DomState) : Prop :=
  d ≠ .on → r.stepping = false ∧ (r.state = .off ∨ r.state = .fault) ∧ (d = .fault → r.state = .fault)

section
variable {s : State} {e : Domain} {m : Module} {w : EngineWrite}

theorem State.write_faultable_self (d : Domain) :
    (s.write e m w).faultable d m = true ↔
      (s.engineDir m).present = true ∧ (s.engineDir m).domain = d ∧ w.mod.state ≠ .fault := by
  rw [State.faultable_iff, State.write_modAt, State.write_engineDir]

theorem State.write_faultable_ne {d : Domain} {k : Module} (h : k ≠ m) :
    (s.write e m w).faultable d k = s.faultable d k := by
  rw [State.faultable, State.write_modAt_ne _ _ _ _ h, State.write_engineDir, State.faultable]

/-- A module with no entry at any engine but its own owner. -/
theorem EnginesSound.entry_ne (hs : EnginesSound s) (hm : (s.engineDir m).domain = e) {d : Domain} (hd : d ≠ e)
    {en : Entry} (h : en ∈ s.engines.recs[d].queue) : en.module ≠ m := by
  rintro rfl
  exact hd ((State.engineOf_of_faultable (hs.entry h).1).symm.trans hm)

theorem modulesRight_write (hs : ModulesRight s) (hw : w.Fits s e m) : ModulesRight (s.write e m w) := by
  intro k
  by_cases hk : k = m
  · subst hk
    rw [State.write_modAt]
    exact ⟨hw.right, hw.absent⟩
  · rw [State.write_modAt_ne _ _ _ _ hk]
    exact hs k

theorem queuesRight_write (hs : EnginesSound s) (hw : w.Fits s e m) : QueuesRight (s.write e m w) := by
  have other {d : Domain} {en : Entry} (hen : en.module ≠ m) {o : Entry} (ho : o ∈ s.engines.recs[d].queue)
      (hoen : o.module = en.module) :
      (s.write e m w).faultable d en.module = true ∧ ((s.write e m w).modAt en.module).stepping = false := by
    rw [State.write_faultable_ne hen, State.write_modAt_ne _ _ _ _ hen, ← hoen]
    exact hs.entry ho
  intro d
  by_cases hd : d = e
  · subst hd
    rw [State.write_recs]
    refine ⟨hw.once, fun en hen => ?_⟩
    by_cases hm : en.module = m
    · obtain ⟨hpresent, hstate, hrest⟩ := hw.own en hen hm
      rw [hm, State.write_faultable_self, State.write_modAt]
      exact ⟨⟨hpresent, hw.domain, hstate⟩, hrest⟩
    · obtain ⟨o, ho, hoen⟩ := hw.others en hen hm
      exact other hm ho hoen
  · rw [State.write_recs_ne _ _ _ _ hd]
    refine ⟨(hs.queues d).1, fun en hen => other (hs.entry_ne hw.domain hd hen) hen rfl⟩

theorem transitionsRight_write (hs : EnginesSound s) (hw : w.Fits s e m) : TransitionsRight (s.write e m w) := by
  have other {d : Domain} {t : Transition} (ht : s.engines.recs[d].work = .transition t) (hm : t.module ≠ m) :
      (s.write e m w).faultable d t.module = true ∧ ((s.write e m w).modAt t.module).stepping = true ∧
        ((s.write e m w).modAt t.module).onPath t.steps = true := by
    rw [State.write_faultable_ne hm, State.write_modAt_ne _ _ _ _ hm]
    exact hs.flight ht
  constructor
  · intro d t ht
    rw [Option.mem_def, State.inFlight_eq_some] at ht
    by_cases hd : d = e
    · subst hd
      rw [State.write_recs] at ht
      cases hw.flight with
      | steps u hu hum hstep hpath hidle =>
        obtain rfl : u = t := by rw [hu] at ht; exact Work.transition.inj ht
        have hpresent : (s.engineDir m).present = true := by
          by_contra habs
          obtain ⟨-, hrest, -⟩ := hw.absent (Bool.eq_false_iff.2 habs)
          rw [hrest] at hstep
          cases hstep
        have hstate : w.mod.state ≠ .fault := hw.right.not_fault_of_stepping hstep
        rw [hum, State.write_faultable_self, State.write_modAt]
        exact ⟨⟨hpresent, hw.domain, hstate⟩, hstep, hpath⟩
      | rests hrest hwork =>
        obtain ⟨hold, hm⟩ := workWithout_eq_transition.1 (hwork.symm.trans ht)
        exact other hold hm
    · rw [State.write_recs_ne _ _ _ _ hd] at ht
      refine other ht ?_
      rintro rfl
      exact hd ((State.engineOf_of_faultable (hs.flight ht).1).symm.trans hw.domain)
  · intro k hk
    rw [State.write_engineOf]
    by_cases hkm : k = m
    · subst hkm
      rw [State.write_modAt] at hk
      cases hw.flight with
      | steps t ht htm _ _ _ =>
        have : (s.write e k w).inFlight (s.engineOf k) = some t := by
          rw [State.inFlight_eq_some, State.engineOf, hw.domain, State.write_recs, ht]
        rw [this]
        simpa using htm
      | rests hrest _ => rw [hrest] at hk; cases hk
    · rw [State.write_modAt_ne _ _ _ _ hkm] at hk
      obtain ⟨t, ht, htk⟩ := hs.stepping_in_flight hk
      have hnow : (s.write e m w).inFlight (s.engineOf k) = some t := by
        by_cases hd : s.engineOf k = e
        · rw [hd, State.inFlight_eq_some] at ht ⊢
          have hout : workWithout m s.engines.recs[e].work = .transition t :=
            workWithout_eq_transition.2 ⟨ht, by rw [htk]; exact hkm⟩
          rw [State.write_recs]
          cases hw.flight with
          | steps _ _ _ _ _ hidle => rw [hout] at hidle; cases hidle
          | rests _ hwork => rw [hwork, hout]
        · rw [State.inFlight_eq_some] at ht ⊢
          rw [State.write_recs_ne _ _ _ _ hd, ht]
      rw [hnow]
      simpa using htk

theorem EngineWrite.Flight.ramp_iff {old : Work} (h : w.Flight m old) : w.eng.work = .ramp ↔ old = .ramp := by
  cases h with
  | steps t ht _ _ _ hidle =>
    rw [ht]
    exact ⟨fun h => (by cases h), fun h => by rw [h] at hidle; cases hidle⟩
  | rests _ hwork => rw [hwork, workWithout_eq_ramp]

theorem rampsRight_write (hs : RampsRight s) (hw : w.Fits s e m) : RampsRight (s.write e m w) := by
  have same (d : Domain) : (s.write e m w).engines.recs[d].work = .ramp ↔ s.engines.recs[d].work = .ramp := by
    by_cases hd : d = e
    · subst hd
      rw [State.write_recs]
      exact hw.flight.ramp_iff
    · rw [State.write_recs_ne _ _ _ _ hd]
  exact ⟨(same 0).not.2 hs.1, fun x => (same x.domain).trans (hs.2 x)⟩

theorem timersRight_write (hs : TimersRight s) (hw : w.Fits s e m) : TimersRight (s.write e m w) := by
  intro d
  by_cases hd : d = e
  · subst hd
    rw [State.write_recs]
    exact hw.timer
  · rw [State.write_recs_ne _ _ _ _ hd]
    exact hs d

theorem enginesSound_write (hs : EnginesSound s) (hw : w.Fits s e m) : EnginesSound (s.write e m w) :=
  ⟨modulesRight_write hs.modules hw, queuesRight_write hs hw, transitionsRight_write hs hw, hs.domains,
    rampsRight_write hs.ramps hw, timersRight_write hs.timers hw⟩

theorem powerRight_write (hs : PowerRight s)
    (hw : (s.engineDir m).present = true → w.mod.powered (s.domState (s.engineOf m))) :
    PowerRight (s.write e m w) := by
  intro k hk
  by_cases hkm : k = m
  · subst hkm
    rw [State.write_modAt]
    exact hw hk
  · rw [State.write_modAt_ne _ _ _ _ hkm]
    exact hs k hk

/-- A write that fits keeps the engines right, where the module's new state is one its domain's power allows. -/
theorem enginesRight_write (hs : EnginesRight s) (hw : w.Fits s e m)
    (hp : (s.engineDir m).present = true → w.mod.powered (s.domState (s.engineOf m))) :
    EnginesRight (s.write e m w) :=
  (enginesSound_write hs.sound hw).right (powerRight_write hs.power hp)

end

end Sys2Proof.Machine


namespace Sys2Proof.Machine

/-! ### What an engine writes about its domain (R98 to R107, R110) -/

/-- The engine of switched domain `x` writes the domain's record, and what the engine itself holds. -/
def State.writeDom (s : State) (x : SwDom) (d : DomRec) (g : EngineRec) : State :=
  { s with engines := { s.engines with doms := s.engines.doms.set x d, recs := s.engines.recs.set x.domain g } }

theorem SwDom.domain_inj {x y : SwDom} : x.domain = y.domain ↔ x = y := Fin.succ_inj

theorem SwDom.domain_ne_zero (x : SwDom) : x.domain ≠ 0 := Fin.succ_ne_zero x

section
variable (s : State) (x : SwDom) (d : DomRec) (g : EngineRec)

@[simp] theorem State.writeDom_modAt (k : Module) : (s.writeDom x d g).modAt k = s.modAt k := rfl
@[simp] theorem State.writeDom_engineOf (k : Module) : (s.writeDom x d g).engineOf k = s.engineOf k := rfl
@[simp] theorem State.writeDom_doms : (s.writeDom x d g).engines.doms[x] = d := set_get_self ..
@[simp] theorem State.writeDom_recs : (s.writeDom x d g).engines.recs[x.domain] = g := set_get_self ..

theorem State.writeDom_doms_ne {y : SwDom} (h : y ≠ x) : (s.writeDom x d g).engines.doms[y] = s.engines.doms[y] :=
  set_get_ne _ _ h

theorem State.writeDom_recs_ne {e : Domain} (h : e ≠ x.domain) :
    (s.writeDom x d g).engines.recs[e] = s.engines.recs[e] := set_get_ne _ _ h

theorem State.domState_switched : s.domState x.domain = s.engines.doms[x].state := by
  rw [State.domState, switchedOf_domain]

theorem State.writeDom_domState : (s.writeDom x d g).domState x.domain = d.state := by
  rw [State.domState_switched, State.writeDom_doms]

theorem State.writeDom_domState_ne {e : Domain} (h : e ≠ x.domain) : (s.writeDom x d g).domState e = s.domState e := by
  unfold State.domState
  cases hy : switchedOf e with
  | none => rfl
  | some y =>
    obtain rfl := switchedOf_eq_some.1 hy
    exact congrArg DomRec.state (s.writeDom_doms_ne x d g (SwDom.domain_inj.not.1 h))

end

/-! #### The moves of a domain, as writes -/

section
variable (s : State) (x : SwDom)

theorem State.onDom_eq_writeDom (f : DomRec → DomRec) :
    s.onDom x f = s.writeDom x (f s.engines.doms[x]) s.engines.recs[x.domain] := by
  unfold State.writeDom
  rw [vector_set_self]
  rfl

/-- An engine whose work is none. -/
def EngineRec.rested (g : EngineRec) : EngineRec := { g with work := .idle, timer := none }

/-- An engine with a ramp in flight, with `n` units of 10 µs to count (R101, R106). -/
def EngineRec.ramping (g : EngineRec) (n : Nat) : EngineRec :=
  { g with work := .ramp, timer := some (10 * n) }

theorem State.completeRampUp_eq : s.completeRampUp x =
    s.writeDom x { s.engines.doms[x] with state := .on, isoReleased := true } s.engines.recs[x.domain].rested := rfl

theorem State.completeRampDown_eq : s.completeRampDown x =
    s.writeDom x { s.engines.doms[x] with state := .off } s.engines.recs[x.domain].rested := rfl

theorem State.writeDom_writeDom (d d' : DomRec) (g g' : EngineRec) :
    (s.writeDom x d g).writeDom x d' g' = s.writeDom x d' g' := by simp [State.writeDom]

theorem State.beginRampUp_eq : s.beginRampUp x =
    if s.pins.dpg[x] then
      s.writeDom x { s.engines.doms[x] with state := .on, dsw := true, isoReleased := true }
        s.engines.recs[x.domain].rested
    else
      s.writeDom x { s.engines.doms[x] with state := .rampUp, dsw := true, isoReleased := false }
        (s.engines.recs[x.domain].ramping s.engines.doms[x].rampTimeout) := by
  let begun := s.writeDom x { s.engines.doms[x] with state := .rampUp, dsw := true, isoReleased := false }
    (s.engines.recs[x.domain].ramping s.engines.doms[x].rampTimeout)
  have hbegun : s.beginRampUp x = if s.pins.dpg[x] then begun.completeRampUp x else begun := by
    unfold begun EngineRec.ramping
    rw [Nat.mul_comm]
    rfl
  rw [hbegun, State.completeRampUp_eq, State.writeDom_writeDom, State.writeDom_doms, State.writeDom_recs]
  rfl

theorem State.beginRampDown_eq : s.beginRampDown x =
    if s.pins.dpg[x] then
      s.writeDom x
        { s.engines.doms[x] with state := .rampDown, dsw := false, isoReleased := false, lingerCount := none }
        (s.engines.recs[x.domain].ramping s.engines.doms[x].offTimeout)
    else
      s.writeDom x { s.engines.doms[x] with state := .off, dsw := false, isoReleased := false, lingerCount := none }
        s.engines.recs[x.domain].rested := by
  split
  · exact State.beginRampDown_waits ‹_›
  · exact State.beginRampDown_completes (Bool.eq_false_iff.2 ‹_›)

end

/-! ### The rule of a domain's write (R89, R99, R112) -/

/-- A write about a switched domain that keeps the engines sound. -/
structure DomFits (s : State) (x : SwDom) (d : DomRec) (g : EngineRec) : Prop where
  right : d.right
  queue : g.queue = s.engines.recs[x.domain].queue
  flight : ∀ t, g.work = .transition t ↔ s.engines.recs[x.domain].work = .transition t
  ramp : g.work = .ramp ↔ d.state = .rampUp ∨ d.state = .rampDown
  timer : g.timer.isSome = true ↔ g.work ≠ .idle

section
variable {s : State} {x : SwDom} {d : DomRec} {g : EngineRec}

theorem DomFits.queue_at (h : DomFits s x d g) (e : Domain) :
    (s.writeDom x d g).engines.recs[e].queue = s.engines.recs[e].queue := by
  by_cases he : e = x.domain
  · subst he; rw [State.writeDom_recs, h.queue]
  · rw [State.writeDom_recs_ne _ _ _ _ he]

theorem DomFits.inFlight (h : DomFits s x d g) (e : Domain) : (s.writeDom x d g).inFlight e = s.inFlight e := by
  refine Option.ext fun t => ?_
  rw [State.inFlight_eq_some, State.inFlight_eq_some]
  by_cases he : e = x.domain
  · subst he; rw [State.writeDom_recs]; exact h.flight t
  · rw [State.writeDom_recs_ne _ _ _ _ he]

theorem enginesSound_writeDom (hs : EnginesSound s) (h : DomFits s x d g) : EnginesSound (s.writeDom x d g) := by
  refine ⟨hs.modules, fun e => ?_, ⟨fun e t ht => ?_, fun m hm => ?_⟩, fun y => ?_, ⟨?_, fun y => ?_⟩, fun e => ?_⟩
  · rw [h.queue_at]
    exact hs.queues e
  · rw [h.inFlight] at ht
    exact hs.transitions.1 e t ht
  · rw [h.inFlight]
    exact hs.transitions.2 m hm
  · by_cases hy : y = x
    · subst hy; rw [State.writeDom_doms]; exact h.right
    · rw [State.writeDom_doms_ne _ _ _ _ hy]; exact hs.domains y
  · rw [State.writeDom_recs_ne _ _ _ _ (SwDom.domain_ne_zero x).symm]
    exact hs.ramps.1
  · by_cases hy : y = x
    · subst hy; rw [State.writeDom_doms, State.writeDom_recs]; exact h.ramp
    · rw [State.writeDom_doms_ne _ _ _ _ hy, State.writeDom_recs_ne _ _ _ _ (SwDom.domain_inj.not.2 hy)]
      exact hs.ramps.2 y
  · by_cases he : e = x.domain
    · subst he; rw [State.writeDom_recs]; exact h.timer
    · rw [State.writeDom_recs_ne _ _ _ _ he]; exact hs.timers e

/-- Every present module of domain `x` may be as it is with the domain in state `d` (R112). -/
abbrev PoweredBy (s : State) (x : SwDom) (d : DomState) : Prop :=
  ∀ m : Module, (s.engineDir m).present = true → s.engineOf m = x.domain → (s.modAt m).powered d

theorem powerRight_writeDom (hs : PowerRight s) (h : PoweredBy s x d.state) : PowerRight (s.writeDom x d g) := by
  intro m hm
  by_cases he : s.engineOf m = x.domain
  · rw [State.writeDom_engineOf, he, State.writeDom_domState]
    exact h m hm he
  · rw [State.writeDom_engineOf, State.writeDom_domState_ne _ _ _ _ he]
    exact hs m hm

theorem enginesRight_writeDom (hs : EnginesRight s) (h : DomFits s x d g) (hp : PoweredBy s x d.state) :
    EnginesRight (s.writeDom x d g) :=
  (enginesSound_writeDom hs.sound h).right (powerRight_writeDom hs.power hp)

/-- The domain's power as it stands. -/
theorem EnginesRight.poweredBy (hs : EnginesRight s) (x : SwDom) : PoweredBy s x s.engines.doms[x].state := by
  intro m hm he
  have := hs.power m hm
  rw [he, State.domState_switched] at this
  exact this

/-- In a domain that is not ON no transition is in flight (R103, R106, R110). -/
theorem EnginesRight.domain_on (hs : EnginesRight s) {e : Domain} {t : Transition}
    (h : s.engines.recs[e].work = .transition t) : s.domState e = .on := by
  obtain ⟨hfault, hstep, -⟩ := hs.sound.flight h
  obtain ⟨hpresent, hdomain, -⟩ := State.faultable_iff.1 hfault
  by_contra hoff
  obtain ⟨hrest, -⟩ := hs.power t.module hpresent (by rw [State.engineOf, hdomain]; exact hoff)
  rw [hrest] at hstep
  cases hstep

theorem PoweredBy.on : PoweredBy s x .on := fun _ _ _ h => absurd rfl h

/-- What holds in one state of a domain without power holds in another, but for FAULT (R112). -/
theorem PoweredBy.mono {d d' : DomState} (h : PoweredBy s x d) (hd : d ≠ .on) (hf : d' ≠ .fault) : PoweredBy s x d' :=
  fun m hm he _ =>
    let ⟨h1, h2, _⟩ := h m hm he hd
    ⟨h1, h2, fun h => absurd h hf⟩

/-- The engine's record with its work not a transition before or after. -/
theorem flight_of_no_transition {a b : Work} (ha : ∀ t, a ≠ .transition t) (hb : ∀ t, b ≠ .transition t)
    (t : Transition) : a = .transition t ↔ b = .transition t :=
  ⟨fun h => absurd h (ha t), fun h => absurd h (hb t)⟩

/-- Where the domain is not ON, its engine's work may end or be a ramp. -/
theorem EnginesRight.no_transition (hs : EnginesRight s) (h : s.engines.doms[x].state ≠ .on) (t : Transition) :
    s.engines.recs[x.domain].work ≠ .transition t := fun ht => by
  have := hs.domain_on ht
  rw [State.domState_switched] at this
  exact h this

theorem domFits_rested (hn : ∀ t, s.engines.recs[x.domain].work ≠ .transition t) (hr : d.right)
    (hd : d.state = .on ∨ d.state = .off) : DomFits s x d s.engines.recs[x.domain].rested where
  right := hr
  queue := rfl
  flight := flight_of_no_transition (fun t h => by cases h) hn
  ramp := by rcases hd with h | h <;> simp [EngineRec.rested, h]
  timer := by simp [EngineRec.rested]

theorem domFits_ramping {n : Nat} (hn : ∀ t, s.engines.recs[x.domain].work ≠ .transition t) (hr : d.right)
    (hd : d.state = .rampUp ∨ d.state = .rampDown) : DomFits s x d (s.engines.recs[x.domain].ramping n) where
  right := hr
  queue := rfl
  flight := flight_of_no_transition (fun t h => by cases h) hn
  ramp := by simp [EngineRec.ramping, hd]
  timer := by simp [EngineRec.ramping]

/-- A record that ramps neither before nor after leaves the engine as it is. -/
theorem domFits_kept {s : State} (hs : EnginesSound s) (hr : d.right)
    (hd : d.state = .rampUp ∨ d.state = .rampDown ↔
      s.engines.doms[x].state = .rampUp ∨ s.engines.doms[x].state = .rampDown) :
    DomFits s x d s.engines.recs[x.domain] where
  right := hr
  queue := rfl
  flight := fun _ => .rfl
  ramp := (hs.ramps.2 x).trans hd.symm
  timer := hs.timers _

end

/-! ### The records a domain goes through (Tables 6-2 and 6-3) -/

section
variable {r : DomRec} (h : r.right)
include h

theorem DomRec.right.cause_none (hf : r.state ≠ .fault) : r.cause = none := by
  obtain ⟨-, -, hcause, -⟩ := h
  cases hc : r.cause with
  | none => rfl
  | some c => exact absurd (hcause.1 (by rw [hc]; rfl)) hf

theorem DomRec.right.count_none (hl : r.state ≠ .linger) : r.lingerCount = none := by
  obtain ⟨-, -, -, hcount, -⟩ := h
  cases hc : r.lingerCount with
  | none => rfl
  | some n => exact absurd (hcount.1 (by rw [hc]; rfl)) hl

theorem DomRec.right.ramped_up (hd : r.state = .rampUp) :
    ({ r with state := .on, isoReleased := true } : DomRec).right := by
  have hcause := h.cause_none (by simp [hd])
  have hcount := h.count_none (by simp [hd])
  obtain ⟨hdsw, -⟩ := h
  simp_all [DomRec.right]

theorem DomRec.right.powered_up (hd : r.state = .off) :
    ({ r with state := .on, dsw := true, isoReleased := true } : DomRec).right := by
  simp [DomRec.right, h.cause_none (by simp [hd]), h.count_none (by simp [hd])]

theorem DomRec.right.ramping_up (hd : r.state = .off) :
    ({ r with state := .rampUp, dsw := true, isoReleased := false } : DomRec).right := by
  simp [DomRec.right, h.cause_none (by simp [hd]), h.count_none (by simp [hd])]

theorem DomRec.right.ramped_down (hd : r.state = .rampDown) : ({ r with state := .off } : DomRec).right := by
  have hcause := h.cause_none (by simp [hd])
  have hcount := h.count_none (by simp [hd])
  obtain ⟨hdsw, hiso, -⟩ := h
  simp_all [DomRec.right]

theorem DomRec.right.ramping_down (hf : r.state ≠ .fault) {st : DomState} (hst : st = .rampDown ∨ st = .off) :
    ({ r with state := st, dsw := false, isoReleased := false, lingerCount := none } : DomRec).right := by
  have hcause := h.cause_none hf
  rcases hst with rfl | rfl <;> simp [DomRec.right, hcause]

theorem DomRec.right.lingers (hd : r.state = .on) {n : Nat} (hn : n ≠ 0) :
    ({ r with state := .linger, lingerCount := some n } : DomRec).right := by
  have hcause := h.cause_none (by simp [hd])
  obtain ⟨hdsw, hiso, -⟩ := h
  simp_all [DomRec.right, Nat.one_le_iff_ne_zero]

theorem DomRec.right.on_again (hd : r.state = .linger) {need : Bool} :
    ({ r with need := need, state := .on, lingerCount := none } : DomRec).right := by
  have hcause := h.cause_none (by simp [hd])
  obtain ⟨hdsw, hiso, -⟩ := h
  simp_all [DomRec.right]

end

/-! ### Ramps, LINGER and ON (R100 to R107) -/

section
variable {s : State} {x : SwDom} (hs : EnginesRight s)
include hs

theorem EnginesRight.dom (x : SwDom) : s.engines.doms[x].right := hs.sound.domains x

theorem enginesRight_completeRampUp (h : s.engines.doms[x].state = .rampUp) : EnginesRight (s.completeRampUp x) := by
  have hon : s.engines.doms[x].state ≠ .on := by rw [h]; decide
  rw [State.completeRampUp_eq]
  exact enginesRight_writeDom hs (domFits_rested (hs.no_transition hon) ((hs.dom x).ramped_up h) (.inl rfl)) .on

theorem enginesRight_completeRampDown (h : s.engines.doms[x].state = .rampDown) :
    EnginesRight (s.completeRampDown x) := by
  have hon : s.engines.doms[x].state ≠ .on := by rw [h]; decide
  rw [State.completeRampDown_eq]
  exact enginesRight_writeDom hs (domFits_rested (hs.no_transition hon) ((hs.dom x).ramped_down h) (.inr rfl))
    ((hs.poweredBy x).mono hon (by simp))

theorem enginesRight_beginRampUp (h : s.engines.doms[x].state = .off) : EnginesRight (s.beginRampUp x) := by
  have hon : s.engines.doms[x].state ≠ .on := by rw [h]; decide
  have hn := hs.no_transition hon
  rw [State.beginRampUp_eq]
  split
  · exact enginesRight_writeDom hs (domFits_rested hn ((hs.dom x).powered_up h) (.inl rfl)) .on
  · exact enginesRight_writeDom hs (domFits_ramping hn ((hs.dom x).ramping_up h) (.inl rfl))
      ((hs.poweredBy x).mono hon (by simp))

/-- RAMP_DOWN begins where the engine has no transition in flight and no module is out of OFF (R103, R104, R106). -/
theorem enginesRight_beginRampDown (hd : s.engines.doms[x].state ≠ .fault)
    (hn : ∀ t, s.engines.recs[x.domain].work ≠ .transition t) (hp : PoweredBy s x .linger) :
    EnginesRight (s.beginRampDown x) := by
  rw [State.beginRampDown_eq]
  split
  · exact enginesRight_writeDom hs (domFits_ramping hn ((hs.dom x).ramping_down hd (.inl rfl)) (.inr rfl))
      (hp.mono (by simp) (by simp))
  · exact enginesRight_writeDom hs (domFits_rested hn ((hs.dom x).ramping_down hd (.inr rfl)) (.inr rfl))
      (hp.mono (by simp) (by simp))

/-- An idle domain has no module out of OFF, and no transition in flight (R103). -/
theorem EnginesRight.idleDue (h : s.idleDue x = true) :
    s.engines.doms[x].state = .on ∧ (∀ t, s.engines.recs[x.domain].work ≠ .transition t) ∧ PoweredBy s x .linger := by
  simp only [State.idleDue, Bool.and_eq_true, decide_eq_true_eq, List.all_eq_true, Bool.or_eq_true, Bool.not_eq_true',
    Option.isNone_iff_eq_none] at h
  obtain ⟨⟨⟨hon, -⟩, hflight⟩, hall⟩ := h
  have hn (t : Transition) : s.engines.recs[x.domain].work ≠ .transition t := fun ht => by
    rw [State.inFlight_eq_some.2 ht] at hflight
    cases hflight
  refine ⟨hon, hn, fun m hm he _ => ⟨?_, ?_, fun h => by cases h⟩⟩
  · by_contra hstep
    obtain ⟨t, ht, -⟩ := hs.sound.stepping_in_flight (Bool.of_not_eq_false hstep)
    rw [he] at ht
    exact hn t (State.inFlight_eq_some.1 ht)
  · rcases hall m (mem_allModules m) with hout | hstate
    · rw [hm, show (s.engineDir m).domain = x.domain from he] at hout
      simp at hout
    · exact hstate

theorem enginesRight_leaveOn (h : s.idleDue x = true) : EnginesRight (s.leaveOn x) := by
  obtain ⟨hon, hn, hp⟩ := hs.idleDue h
  unfold State.leaveOn
  dsimp only
  split
  · exact enginesRight_beginRampDown hs (by rw [hon]; decide) hn hp
  · rename_i hl
    rw [State.onDom_eq_writeDom]
    exact enginesRight_writeDom hs (domFits_kept hs.sound ((hs.dom x).lingers hon hl) (by rw [hon]; simp)) hp

/-- A domain in LINGER is ON again (R105). -/
theorem enginesRight_lingerToOn {d : DomRec} (hr : d.right) (hd : d.state = .on)
    (h : s.engines.doms[x].state = .linger) : EnginesRight (s.writeDom x d s.engines.recs[x.domain]) :=
  enginesRight_writeDom hs (domFits_kept hs.sound hr (by rw [hd, h]; decide)) (by rw [hd]; exact .on)

theorem enginesRight_leaveLinger (e : Domain) : EnginesRight (s.leaveLinger e) := by
  unfold State.leaveLinger
  split
  · exact hs
  · rename_i x _
    rw [State.onDom_eq_writeDom]
    split
    · exact enginesRight_lingerToOn hs ((hs.dom x).on_again ‹_›) rfl ‹_›
    · exact enginesRight_writeDom hs (domFits_kept hs.sound (hs.dom x) .rfl) (hs.poweredBy x)

end

end Sys2Proof.Machine


namespace Sys2Proof.Machine

/-! ### Steps: the lines they drive and the states they lead to (R76, R85, R90 to R93) -/

/-- A record between two steps of its path: the lines of its state, and no fault. -/
structure ModRec.Underway (r : ModRec) : Prop where
  stepping : r.stepping = true
  lines : r.lines = r.state.lines
  cause : r.cause = none
  armed : r.armed = true → r.state = .paused
  woken : r.woken = true → r.state = .running

theorem linesDuring_eq_lines {st : LineStep} {p : PhysState} (h : stepApplies st p = true) :
    linesDuring st p = (stateAfter st p).lines := by
  revert h
  cases st <;> cases p <;> decide

theorem ModRec.driveStep_lines {r : ModRec} (h : r.lines = r.state.lines) (st : LineStep) :
    (r.driveStep st).lines = linesDuring st r.state := by
  have hclock : r.clockOpen = r.state.lines.1 := congrArg Prod.fst h
  have hreset : r.resetReleased = r.state.lines.2 := congrArg Prod.snd h
  cases st <;> simp [ModRec.driveStep, ModRec.lines, linesDuring, hclock, hreset]

section
variable (r : ModRec) (st : LineStep)

@[simp] theorem ModRec.driveStep_state : (r.driveStep st).state = r.state := by cases st <;> rfl
@[simp] theorem ModRec.driveStep_armed : (r.driveStep st).armed = r.armed := by cases st <;> rfl
@[simp] theorem ModRec.driveStep_woken : (r.driveStep st).woken = r.woken := by cases st <;> rfl
@[simp] theorem ModRec.driveStep_cause : (r.driveStep st).cause = r.cause := by cases st <;> rfl
@[simp] theorem ModRec.driveStep_stepping : (r.driveStep st).stepping = r.stepping := by cases st <;> rfl

end

theorem pathFits_cons {p : PhysState} {st : LineStep} {rest : List LineStep} :
    pathFits p (st :: rest) = true ↔ stepApplies st p = true ∧ pathFits (stateAfter st p) rest = true := by
  rw [pathFits, Bool.and_eq_true]

/-- No path begins in FAULT. -/
theorem not_fault_of_pathFits {p : PhysState} {steps : List LineStep} (h : pathFits p steps = true) : p ≠ .fault := by
  rintro rfl
  cases steps with
  | nil => cases h
  | cons st rest => obtain ⟨happlies, -⟩ := pathFits_cons.1 h; cases st <;> cases happlies

/-- A step that completes leaves the record between two steps (R85, R93). -/
theorem ModRec.Underway.afterStep {r : ModRec} {st : LineStep} (hstep : r.stepping = true) (hcause : r.cause = none)
    (hl : r.lines = linesDuring st r.state) (ha : stepApplies st r.state = true) (t : Target) (last : Bool) :
    (r.afterStep st t last).Underway where
  stepping := hstep
  lines := hl.trans (linesDuring_eq_lines ha)
  cause := hcause
  armed := by simp [ModRec.afterStep]
  woken := by simp [ModRec.afterStep]

/-- A record without a fault is right where it keeps its flags, and rests as it should (R75, R76). -/
theorem ModRec.right_of_no_fault {r : ModRec} (ha : r.armed = true → r.state = .paused)
    (hw : r.woken = true → r.state = .running) (hc : r.cause = none) (hf : r.state ≠ .fault)
    (hrest : r.stepping = false → r.atRest ∧ r.pendingRestart = none) : r.right :=
  ⟨ha, hw, by simp [hc, hf], fun h => absurd h hf, hrest⟩

/-! ### What a path leaves (R81, R83, R86, R93) -/

theorem module_of_mem_entryAfter {m : Module} {r : ModRec} {en : Entry} (h : en ∈ entryAfter m r) : en.module = m := by
  unfold entryAfter at h
  split at h
  · cases h
  · rw [List.mem_singleton.1 h]

theorem entryAfter_once (m : Module) (r : ModRec) : ((entryAfter m r).map (·.module)).Nodup := by
  unfold entryAfter
  split <;> simp

/-- What a path leaves of a write whose queue was `q`: a step in flight that waits, or the module at rest, with the entry
that the comparison at its end appends. -/
inductive EngineWrite.PathLeft (m : Module) (q : List Entry) (w : EngineWrite) : Prop where
  | waits (t : Transition) : w.eng.work = .transition t → t.module = m → w.mod.stepping = true →
      w.mod.onPath t.steps = true → w.eng.timer.isSome = true → w.eng.queue = q → PathLeft m q w
  | ends (r : ModRec) : w.mod.stepping = false → w.mod.state ≠ .fault → w.eng.work = .idle → w.eng.timer = none →
      w.eng.queue = q ++ entryAfter m r → PathLeft m q w

/-- Every path leaves a record that is right, and a step in flight or the module at rest (R76, R93). -/
theorem EngineWrite.path_left (ready : Bool) (m : Module) (t : Target) (restart : Option Port) (steps : List LineStep)
    (w : EngineWrite) (hw : w.mod.Underway) (hp : pathFits w.mod.state steps = true) :
    (w.path ready m t restart steps).mod.right ∧
      (w.path ready m t restart steps).PathLeft m w.eng.queue := by
  induction steps generalizing w with
  | nil =>
    have hstate : w.mod.state ≠ .held ∧ w.mod.state ≠ .fault := of_decide_eq_true hp
    exact ⟨ModRec.right_of_no_fault hw.armed hw.woken hw.cause hstate.2 fun _ => ⟨⟨hstate.1, hw.lines⟩, rfl⟩,
      .ends w.mod rfl hstate.2 rfl rfl rfl⟩
  | cons st rest ih =>
    obtain ⟨happlies, hrest⟩ := pathFits_cons.1 hp
    have hlines := ModRec.driveStep_lines hw.lines st
    unfold EngineWrite.path
    split
    · refine ih ((w.begun st).completed m st t rest.isEmpty) ?_ ?_
      · exact .afterStep (r := w.mod.driveStep st) (by simp [hw.stepping]) (by simp [hw.cause]) (by simpa using hlines)
          (by simpa using happlies) t _
      · simpa [EngineWrite.completed, EngineWrite.changed, EngineWrite.begun, ModRec.afterStep] using hrest
    · rename_i hwait
      have hkind : st = .clockOn ∨ st = .clockOff ∨ st = .hold := by
        cases st with
        | clockOn => exact .inl rfl
        | clockOff => exact .inr (.inl rfl)
        | hold => exact .inr (.inr rfl)
        | resetAssert => exact absurd rfl hwait
        | resetRelease => exact absurd rfl hwait
      refine ⟨ModRec.right_of_no_fault ?_ ?_ ?_ ?_ ?_, .waits _ rfl rfl ?_ ?_ ?_ rfl⟩
      · simpa [EngineWrite.waiting, EngineWrite.begun] using hw.armed
      · simpa [EngineWrite.waiting, EngineWrite.begun] using hw.woken
      · simpa [EngineWrite.waiting, EngineWrite.begun] using hw.cause
      · simpa [EngineWrite.waiting, EngineWrite.begun] using not_fault_of_pathFits hp
      · simp [EngineWrite.waiting, EngineWrite.begun, hw.stepping]
      · simpa [EngineWrite.waiting, EngineWrite.begun] using hw.stepping
      · simpa [EngineWrite.waiting, EngineWrite.begun, ModRec.onPath, hp, hkind] using hlines
      · rcases hkind with rfl | rfl | rfl <;> rfl

/-! ### Queues without a module's entry -/

theorem mem_withoutEntry {m : Module} {q : List Entry} {en : Entry} :
    en ∈ withoutEntry m q ↔ en ∈ q ∧ en.module ≠ m := by
  rw [withoutEntry, List.mem_filter, decide_eq_true_eq]

theorem withoutEntry_of_none {m : Module} {q : List Entry} (h : ∀ en ∈ q, en.module ≠ m) : withoutEntry m q = q :=
  List.filter_eq_self.2 fun en hen => decide_eq_true (h en hen)

/-- A module's new entries join a queue that has none of it. -/
theorem nodup_withoutEntry_append {m : Module} {q l : List Entry} (hq : (q.map (·.module)).Nodup)
    (hl : (l.map (·.module)).Nodup) (hm : ∀ en ∈ l, en.module = m) :
    ((withoutEntry m q ++ l).map (·.module)).Nodup := by
  rw [List.map_append, List.nodup_append]
  refine ⟨hq.sublist (List.filter_sublist.map _), hl, ?_⟩
  intro a ha b hb hab
  obtain ⟨en, hen, rfl⟩ := List.mem_map.1 ha
  obtain ⟨en', hen', rfl⟩ := List.mem_map.1 hb
  exact (mem_withoutEntry.1 hen).2 (hab.trans (hm en' hen'))

section
variable {s : State} {e : Domain} {m : Module} {w : EngineWrite}

/-- A write whose queue is the old one without the module's entry, and behind it new entries of the module at rest. -/
theorem fits_of_appends (hs : EnginesSound s) (hm : s.faultable e m = true) (hr : w.mod.right) {l : List Entry}
    (hq : w.eng.queue = withoutEntry m s.engines.recs[e].queue ++ l) (hl : (l.map (·.module)).Nodup)
    (hlm : ∀ en ∈ l, en.module = m ∧ w.mod.state ≠ .fault ∧ w.mod.stepping = false)
    (hflight : w.Flight m s.engines.recs[e].work) (htimer : w.eng.timer.isSome = true ↔ w.eng.work ≠ .idle) :
    w.Fits s e m := by
  obtain ⟨hpresent, hdomain, -⟩ := State.faultable_iff.1 hm
  refine ⟨hdomain, hr, fun h => ?_, ?_, fun en hen hne => ?_, fun en hen hen' => ?_, hflight, htimer⟩
  · rw [hpresent] at h; cases h
  · rw [hq]
    exact nodup_withoutEntry_append (hs.queues e).1 hl fun en hen => (hlm en hen).1
  · rw [hq, List.mem_append] at hen
    rcases hen with hen | hen
    · exact ⟨en, (mem_withoutEntry.1 hen).1, rfl⟩
    · exact absurd (hlm en hen).1 hne
  · rw [hq, List.mem_append] at hen
    rcases hen with hen | hen
    · exact absurd hen' (mem_withoutEntry.1 hen).2
    · exact ⟨hpresent, (hlm en hen).2⟩

/-- What a path leaves fits, where the engine had no other transition in flight. -/
theorem fits_of_pathLeft (hs : EnginesSound s) (hm : s.faultable e m = true) (hr : w.mod.right)
    (hidle : workWithout m s.engines.recs[e].work = .idle)
    (h : w.PathLeft m (withoutEntry m s.engines.recs[e].queue)) : w.Fits s e m := by
  cases h with
  | waits t ht htm hstep hpath htimer hq =>
    refine fits_of_appends (l := []) hs hm hr (by rw [hq, List.append_nil]) .nil (by simp)
      (.steps t ht htm hstep hpath hidle) ?_
    simp [htimer, ht]
  | ends r hstep hstate hwork htimer hq =>
    refine fits_of_appends hs hm hr hq (entryAfter_once m r)
      (fun en hen => ⟨module_of_mem_entryAfter hen, hstate, hstep⟩) (.rests hstep (by rw [hwork, hidle])) ?_
    simp [htimer, hwork]

/-- In a domain that is ON a module may be as it likes. -/
theorem ModRec.powered_on (r : ModRec) {d : DomState} (h : d = .on) : r.powered d := fun hd => absurd h hd

/-- A module of the engine whose domain is ON runs a path. -/
theorem enginesRight_path (hs : EnginesRight s) (hm : s.faultable e m = true) (hon : s.domState e = .on)
    (hidle : workWithout m s.engines.recs[e].work = .idle)
    (hq : w.eng.queue = withoutEntry m s.engines.recs[e].queue) (hw : w.mod.Underway) (ready : Bool) (t : Target)
    (restart : Option Port) {steps : List LineStep} (hp : pathFits w.mod.state steps = true) :
    EnginesRight (s.write e m (w.path ready m t restart steps)) := by
  obtain ⟨hr, hleft⟩ := w.path_left ready m t restart steps hw hp
  rw [hq] at hleft
  refine enginesRight_write hs (fits_of_pathLeft hs.sound hm hr hidle hleft) fun _ => ModRec.powered_on _ ?_
  rw [State.engineOf_of_faultable hm, hon]

/-- The step in flight completes, and the path goes on or ends (R93). -/
theorem enginesRight_finishStep (hs : EnginesRight s) {t : Transition} (h : s.inFlight e = some t) :
    EnginesRight (s.finishStep e t) := by
  have hwork := State.inFlight_eq_some.1 h
  obtain ⟨hm, hstep, hpath⟩ := hs.sound.flight hwork
  cases hsteps : t.steps with
  | nil => rw [hsteps] at hpath; cases hpath
  | cons st rest =>
    rw [hsteps, ModRec.onPath, Bool.and_eq_true, Bool.and_eq_true, decide_eq_true_eq, decide_eq_true_eq] at hpath
    obtain ⟨⟨-, hfits⟩, hlines⟩ := hpath
    obtain ⟨happlies, hrest⟩ := pathFits_cons.1 hfits
    have hcause : (s.modAt t.module).cause = none := by
      obtain ⟨⟨-, -, hcause, -⟩, -⟩ := hs.sound.modules t.module
      cases hc : (s.modAt t.module).cause with
      | none => rfl
      | some c => exact absurd (hcause.1 (by rw [hc]; rfl)) (not_fault_of_pathFits hfits)
    have hqueue : withoutEntry t.module s.engines.recs[e].queue = s.engines.recs[e].queue :=
      withoutEntry_of_none fun en hen hen' => by
        have hrests := (hs.sound.entry hen).2
        rw [hen', hstep] at hrests
        cases hrests
    rw [s.finishStep_eq_write e hsteps]
    refine enginesRight_path hs hm (hs.domain_on hwork) ?_ hqueue.symm ?_ _ _ _ hrest
    · rw [hwork, workWithout, if_pos rfl]
    · exact .afterStep hstep hcause hlines happlies _ _

end

end Sys2Proof.Machine


namespace Sys2Proof.Machine

/-! ### The taking of an entry, and the end of an engine's event (R84 to R87, R103, R132) -/

/-- The path of an up-plan fits the state it is taken from (Table 5-4). -/
theorem planOf_up_fits {r : ModRec} {t : Target} {steps : List LineStep} (h : planOf r t = .up steps) :
    pathFits r.state steps = true := by
  unfold planOf at h
  repeat' split at h
  all_goals cases h
  all_goals rw [‹r.state = _›]; rfl

/-- The path of a down-plan fits the state it is taken from, PAUSED or RUNNING (Table 5-4). -/
theorem planOf_down_fits {r : ModRec} {t : Target} {steps : List LineStep} (h : planOf r t = .down steps) :
    pathFits r.state steps = true ∧ r.state ≠ .off := by
  unfold planOf at h
  repeat' split at h
  all_goals cases h
  all_goals rw [‹r.state = _›]; decide

/-- A flag-only plan keeps the state, PAUSED or RUNNING (Table 5-4). -/
theorem planOf_flagOnly_state {r : ModRec} {t : Target} (h : planOf r t = .flagOnly) :
    t.state = r.state ∧ (r.state = .paused ∨ r.state = .running) := by
  unfold planOf at h
  repeat' split at h
  all_goals cases h
  all_goals rw [‹r.state = _›, ‹t.state = _›]; decide

theorem mem_dependentsIn {dir : Vector DirRecord 32} {m k : Module} :
    k ∈ dependentsIn dir m ↔ dir[k].present = true ∧ dir[k].supplier = some m := by
  rw [dependentsIn, List.mem_filter, Bool.and_eq_true, decide_eq_true_eq]
  exact and_iff_right (mem_allModules k)

/-- The check of a restart (R132). -/
theorem State.restartPasses_iff {s : State} {m : Module} {t : Target} :
    s.restartPasses m t = true ↔
      ((s.modAt m).state = .paused ∨ (s.modAt m).state = .running) ∧
        (∀ k : Module, (s.engineDir k).present = true → (s.engineDir k).supplier = some m → (s.modAt k).up = false) ∧
          t ≠ .off := by
  unfold State.restartPasses
  rw [Bool.and_eq_true, Bool.and_eq_true, decide_eq_true_eq, decide_eq_true_eq, Bool.not_eq_true', List.any_eq_false,
    and_assoc]
  refine and_congr_right fun _ => and_congr_left fun _ => forall_congr' fun k => ?_
  rw [mem_dependentsIn, and_imp, Bool.not_eq_true]
  rfl

theorem restartPath_fits {p : PhysState} (h : p = .paused ∨ p = .running) : pathFits p (restartPath p) = true := by
  rcases h with rfl | rfl <;> rfl

section
variable {s : State} {e : Domain} {m : Module} (hs : EnginesRight s)
include hs

/-- A module out of OFF and not in FAULT stands in a domain that is ON (R112). -/
theorem EnginesRight.on_of_up (hm : s.faultable e m = true) (ho : (s.modAt m).state ≠ .off) : s.domState e = .on := by
  obtain ⟨hpresent, hdomain, hfault⟩ := State.faultable_iff.1 hm
  have hp := hs.power m hpresent
  rw [State.engineOf, hdomain] at hp
  by_contra hoff
  obtain ⟨-, hstate, -⟩ := hp hoff
  exact hstate.elim ho hfault

/-- A module at rest that begins a transition stands between two steps. -/
theorem EnginesRight.underway (hrest : (s.modAt m).stepping = false) (hf : (s.modAt m).state ≠ .fault) :
    ({ s.modAt m with stepping := true } : ModRec).Underway := by
  obtain ⟨⟨harmed, hwoken, hcause, -, hatRest⟩, -⟩ := hs.sound.modules m
  obtain ⟨⟨-, hlines⟩, -⟩ := hatRest hrest
  refine ⟨rfl, hlines, ?_, harmed, hwoken⟩
  change (s.modAt m).cause = none
  cases hc : (s.modAt m).cause with
  | none => rfl
  | some c => exact absurd (hcause.1 (by rw [hc]; rfl)) hf

variable {en : Entry} (hen : en ∈ s.engines.recs[e].queue) (hidle : s.engines.recs[e].work = .idle)
include hen hidle

/-- The path of an entry at an idle engine, where the domain is ON. -/
theorem enginesRight_entryPath (hon : s.domState e = .on) (ready : Bool) (restart : Option Port) {steps : List LineStep}
    (hp : pathFits (s.modAt en.module).state steps = true) (ct : List CtNotice) :
    EnginesRight (s.write e en.module
      ({ s.started e en.module with ct := ct }.path ready en.module en.target restart steps)) := by
  obtain ⟨hm, hrest⟩ := hs.sound.entry hen
  exact enginesRight_path hs hm hon (by rw [hidle]; rfl) rfl
    (hs.underway hrest (State.not_fault_of_faultable hm)) _ _ _ hp

/-- A module at rest whose entry leaves, with its flags as they should be and new entries of it at the tail. -/
theorem enginesRight_entryEnds {w : EngineWrite} (hr : w.mod.right) (hstate : w.mod.state = (s.modAt en.module).state)
    (hstep : w.mod.stepping = false) {l : List Entry} (hl : (l.map (·.module)).Nodup) (hlm : ∀ n ∈ l, n.module = en.module)
    (heng : w.eng = { s.engines.recs[e] with queue := withoutEntry en.module s.engines.recs[e].queue ++ l }) :
    EnginesRight (s.write e en.module w) := by
  obtain ⟨hm, hrest⟩ := hs.sound.entry hen
  obtain ⟨hpresent, -, hfault⟩ := State.faultable_iff.1 hm
  have hwork : w.eng.work = .idle := by rw [heng]; exact hidle
  refine enginesRight_write hs (fits_of_appends hs.sound hm hr (by rw [heng]) hl
    (fun n hn => ⟨hlm n hn, by rw [hstate]; exact hfault, hstep⟩) (.rests hstep (by rw [hwork, hidle]; rfl)) ?_)
    fun _ hoff => ?_
  · rw [heng]
    exact hs.sound.timers e
  · obtain ⟨-, hpower⟩ := hs.power en.module hpresent hoff
    rw [hstate]
    exact ⟨hstep, hpower⟩

/-- A restart-flagged entry is taken: its path begins, or the restart fails (R132 to R134). -/
theorem enginesRight_takeRestartEntry {p : Port} (hr : en.restart = some p) : EnginesRight (s.takeEntry e en) := by
  obtain ⟨hm, hrest⟩ := hs.sound.entry hen
  cases hp : s.restartPasses en.module en.target with
  | true =>
    obtain ⟨hup, -, -⟩ := State.restartPasses_iff.1 hp
    have hon := hs.on_of_up hm (by rcases hup with h | h <;> rw [h] <;> decide)
    rw [State.takeEntry_restarts hr hp]
    exact enginesRight_entryPath hs hen hidle hon _ _ (restartPath_fits hup) _
  | false =>
    rw [State.takeEntry_fails hr hp]
    refine enginesRight_entryEnds hs hen hidle (hs.sound.modules en.module).1 rfl hrest ?_ ?_ rfl
    · split <;> simp
    · split <;> simp

/-- An entry without a restart flag is taken where it is eligible (R84, R86, R87, R105). -/
theorem enginesRight_takePlainEntry (hr : en.restart = none) (hel : s.eligible e en = true) :
    EnginesRight (s.takeEntry e en) := by
  obtain ⟨hm, hrest⟩ := hs.sound.entry hen
  rw [State.eligible, hr, Option.isSome_none, Bool.false_or] at hel
  cases hp : planOf (s.modAt en.module) en.target with
  | up steps =>
    rw [hp] at hel
    rw [State.takeEntry_up hr hp]
    have hlinger := enginesRight_leaveLinger hs e
    have hon : (s.leaveLinger e).domState e = .on := by
      simp only [State.upEligible, Bool.and_eq_true, decide_eq_true_eq] at hel
      exact State.leaveLinger_domState hel.1
    rw [State.leaveLinger_eq] at hlinger hon ⊢
    exact enginesRight_entryPath hlinger hen hidle hon _ _ (planOf_up_fits hp) _
  | down steps =>
    obtain ⟨hfits, hup⟩ := planOf_down_fits hp
    rw [State.takeEntry_down hr hp]
    exact enginesRight_entryPath hs hen hidle (hs.on_of_up hm hup) _ _ hfits _
  | flagOnly =>
    obtain ⟨hstate, hup⟩ := planOf_flagOnly_state hp
    obtain ⟨⟨harmed, hwoken, hcause, hfault, hatRest⟩, -⟩ := hs.sound.modules en.module
    rw [State.takeEntry_flagOnly hr hp]
    refine enginesRight_entryEnds hs hen hidle ⟨fun h => ?_, fun h => ?_, hcause, hfault, fun h => ?_⟩ rfl hrest
      (entryAfter_once ..) (fun n hn => module_of_mem_entryAfter hn) rfl
    · rw [of_decide_eq_true h] at hstate
      exact hstate.symm
    · rw [of_decide_eq_true h] at hstate
      exact hstate.symm
    · exact ⟨(hatRest hrest).1, rfl⟩
  | nothing => rw [hp] at hel; cases hel

end

/-- What every engine keeps at the end of its event (R86, R89, R101, R103). -/
theorem enginesRight_settleEngine {s : State} (hs : EnginesRight s) (e : Domain) : EnginesRight (s.settleEngine e) := by
  refine State.settleEngine_keeps EnginesRight e s (fun u v hu hv => ?_) hs
  obtain ⟨hidle, ⟨x, -, hdue, rfl⟩ | ⟨en, hen, hel, rfl⟩ | ⟨x, -, hdue, rfl⟩⟩ := State.engineMove_cases hv
  · simp only [State.rampUpDue, Bool.and_eq_true, decide_eq_true_eq] at hdue
    obtain ⟨⟨⟨hoff, -⟩, -⟩, -⟩ := hdue
    exact enginesRight_beginRampUp hu hoff
  · cases hr : en.restart with
    | some p => exact enginesRight_takeRestartEntry hu hen hidle hr
    | none => exact enginesRight_takePlainEntry hu hen hidle hr hel
  · exact enginesRight_leaveOn hu hdue

end Sys2Proof.Machine


namespace Sys2Proof.Machine

/-! ### Writes that leave a module's transition and state as they are (R78 to R82, R131) -/

theorem ModRec.onPath_congr {r q : ModRec} (hstate : q.state = r.state) (hlines : q.lines = r.lines)
    (steps : List LineStep) : q.onPath steps = r.onPath steps := by
  cases steps with
  | nil => rfl
  | cons st rest => rw [ModRec.onPath, hstate, hlines, ModRec.onPath]

section
variable {s : State} {e : Domain} {m : Module} {w : EngineWrite}

/-- A write that keeps the module's state, lines and stepping mark, and whose queue has entries for modules that had one,
or for the module at rest. -/
structure EngineWrite.Mild (w : EngineWrite) (s : State) (e : Domain) (m : Module) : Prop where
  domain : (s.engineDir m).domain = e
  right : w.mod.right
  absent : (s.engineDir m).present = false → w.mod.wanted = .off
  state : w.mod.state = (s.modAt m).state
  stepping : w.mod.stepping = (s.modAt m).stepping
  lines : w.mod.lines = (s.modAt m).lines
  work : w.eng.work = s.engines.recs[e].work
  timer : w.eng.timer = s.engines.recs[e].timer
  once : (w.eng.queue.map (·.module)).Nodup
  entries : ∀ en ∈ w.eng.queue, (∃ o ∈ s.engines.recs[e].queue, o.module = en.module) ∨
    en.module = m ∧ s.faultable e m = true ∧ (s.modAt m).stepping = false

theorem EngineWrite.Mild.fits (h : w.Mild s e m) (hs : EnginesSound s) : w.Fits s e m where
  domain := h.domain
  right := h.right
  absent ha := by
    obtain ⟨-, habsent⟩ := hs.modules m
    obtain ⟨hstate, hstep, -⟩ := habsent ha
    exact ⟨h.state.trans hstate, h.stepping.trans hstep, h.absent ha⟩
  once := h.once
  others en hen hne := (h.entries en hen).resolve_right fun hm => hne hm.1
  own en hen hm := by
    have hown : s.faultable e m = true ∧ (s.modAt m).stepping = false := by
      rcases h.entries en hen with ⟨o, ho, hoen⟩ | ⟨-, hown⟩
      · have := hs.entry ho
        rwa [hoen, hm] at this
      · exact hown
    obtain ⟨hpresent, -, hfault⟩ := State.faultable_iff.1 hown.1
    exact ⟨hpresent, by rw [h.state]; exact hfault, by rw [h.stepping]; exact hown.2⟩
  flight := by
    cases hstep : (s.modAt m).stepping with
    | true =>
      obtain ⟨t, ht, htm⟩ := hs.stepping_in_flight hstep
      rw [State.engineOf, h.domain, State.inFlight_eq_some] at ht
      obtain ⟨-, -, hpath⟩ := hs.flight ht
      rw [htm] at hpath
      refine .steps t (h.work.trans ht) htm (h.stepping.trans hstep) ?_ (by rw [ht, workWithout, if_pos htm])
      rw [ModRec.onPath_congr h.state h.lines]
      exact hpath
    | false =>
      refine .rests (h.stepping.trans hstep) ?_
      rw [h.work, workWithout_self fun t ht => hs.not_in_flight hstep e ht]
  timer := by
    rw [h.work, h.timer]
    exact hs.timers e

theorem EngineWrite.Mild.enginesRight (h : w.Mild s e m) (hs : EnginesRight s) : EnginesRight (s.write e m w) :=
  enginesRight_write hs (h.fits hs.sound) fun hp => by
    rw [ModRec.powered, h.state, h.stepping]
    exact hs.power m hp

/-- The module's record alone changes, in no more than a mild way. -/
theorem mild_of_record {r : ModRec} (hs : EnginesSound s) (hr : r.right)
    (habsent : (s.engineDir m).present = false → r.wanted = .off) (hstate : r.state = (s.modAt m).state)
    (hstep : r.stepping = (s.modAt m).stepping) (hlines : r.lines = (s.modAt m).lines) :
    ({ s.kept (s.engineOf m) m with mod := r } : EngineWrite).Mild s (s.engineOf m) m :=
  ⟨rfl, hr, habsent, hstate, hstep, hlines, rfl, rfl, (hs.queues _).1, fun en hen => .inl ⟨en, hen, rfl⟩⟩

/-- A record's times are no part of what is right about it (R78). -/
theorem enginesRight_setTiming (hs : EnginesRight s) (m : Module) (ack hold idle : Nat) :
    EnginesRight (s.onMod m fun r => { r with ackTimeout := ack, resetHold := hold, idleWindow := idle }) := by
  obtain ⟨hr, habsent⟩ := hs.sound.modules m
  rw [s.onMod_eq_write (s.engineOf m) m]
  exact EngineWrite.Mild.enginesRight (mild_of_record hs.sound hr hs.sound.unwanted rfl rfl rfl) hs

/-! #### Target and restart postings -/

theorem mem_queueTowards {q : List Entry} {r : ModRec} {t : Target} {en : Entry} (h : en ∈ queueTowards q m r t) :
    (∃ o ∈ q, o.module = en.module) ∨ en.module = m := by
  unfold queueTowards at h
  split at h
  · obtain ⟨o, ho, rfl⟩ := List.mem_map.1 (List.mem_filter.1 h).1
    exact .inl ⟨o, ho, by split <;> rfl⟩
  · split at h
    · exact .inl ⟨en, h, rfl⟩
    · rcases List.mem_append.1 h with h | h
      · exact .inl ⟨en, h, rfl⟩
      · exact .inr (by rw [List.mem_singleton.1 h])

theorem mem_queueRestart {q : List Entry} {r : ModRec} {p : Port} {en : Entry} (h : en ∈ queueRestart q m r p) :
    (∃ o ∈ q, o.module = en.module) ∨ en.module = m := by
  unfold queueRestart at h
  split at h
  · obtain ⟨o, ho, rfl⟩ := List.mem_map.1 h
    exact .inl ⟨o, ho, by split <;> rfl⟩
  · rcases List.mem_append.1 h with h | h
    · exact .inl ⟨en, h, rfl⟩
    · exact .inr (by rw [List.mem_singleton.1 h])

/-- Changing entries in their places leaves each module its one entry. -/
theorem nodup_map_entries {q : List Entry} {f : Entry → Entry} (hf : ∀ en, (f en).module = en.module)
    (hq : (q.map (·.module)).Nodup) : ((q.map f).map (·.module)).Nodup := by
  have hcomp : (fun en : Entry => en.module) ∘ f = fun en => en.module := funext hf
  rwa [List.map_map, hcomp]

theorem nodup_append_entry {q : List Entry} {en : Entry} (hq : (q.map (·.module)).Nodup)
    (h : ¬q.any (fun o => decide (o.module = en.module)) = true) : ((q ++ [en]).map (·.module)).Nodup := by
  simp only [List.any_eq_true, decide_eq_true_eq, not_exists, not_and] at h
  rw [← withoutEntry_of_none h]
  exact nodup_withoutEntry_append hq (by simp) fun n hn => by rw [List.mem_singleton.1 hn]

theorem nodup_queueTowards {q : List Entry} {r : ModRec} {t : Target} (hq : (q.map (·.module)).Nodup) :
    ((queueTowards q m r t).map (·.module)).Nodup := by
  unfold queueTowards
  split
  · exact (nodup_map_entries (fun en => by split <;> rfl) hq).sublist (List.filter_sublist.map _)
  · split
    · exact hq
    · exact nodup_append_entry hq ‹_›

theorem nodup_queueRestart {q : List Entry} {r : ModRec} {p : Port} (hq : (q.map (·.module)).Nodup) :
    ((queueRestart q m r p).map (·.module)).Nodup := by
  unfold queueRestart
  split
  · exact nodup_map_entries (fun en => by split <;> rfl) hq
  · exact nodup_append_entry hq ‹_›

/-- A module of the engine at rest has its entry changed, or gets one. -/
theorem mild_of_queue {r : ModRec} {q : List Entry} (hm : s.faultable e m = true) (hr : r.right)
    (hstate : r.state = (s.modAt m).state) (hstep : r.stepping = (s.modAt m).stepping)
    (hlines : r.lines = (s.modAt m).lines) (hq : (q.map (·.module)).Nodup)
    (hmem : ∀ en ∈ q, (∃ o ∈ s.engines.recs[e].queue, o.module = en.module) ∨
      en.module = m ∧ (s.modAt m).stepping = false) :
    ({ s.kept e m with mod := r, eng := { s.engines.recs[e] with queue := q } } : EngineWrite).Mild s e m := by
  obtain ⟨hpresent, hdomain, -⟩ := State.faultable_iff.1 hm
  exact ⟨hdomain, hr, fun h => (by rw [hpresent] at h; cases h), hstate, hstep, hlines, rfl, rfl, hq,
    fun en hen => (hmem en hen).imp_right fun ⟨h, h'⟩ => ⟨h, hm, h'⟩⟩

theorem enginesRight_takeTarget (hs : EnginesRight s) (e : Domain) (m : Module) (t : Target) :
    EnginesRight (s.takeTarget e m t) := by
  by_cases hm : s.faultable e m = true
  · obtain ⟨⟨harmed, hwoken, hcause, -, hrest⟩, -⟩ := hs.sound.modules m
    have hr : ({ s.modAt m with wanted := t } : ModRec).right :=
      ⟨harmed, hwoken, hcause, fun hf => absurd hf (State.not_fault_of_faultable hm), hrest⟩
    rw [s.takeTarget_eq_write e m hm]
    refine (mild_of_queue hm hr rfl rfl rfl ?_ fun en hen => ?_).enginesRight hs
    · split
      · exact (hs.sound.queues e).1
      · exact nodup_queueTowards (hs.sound.queues e).1
    · split at hen
      · exact .inl ⟨en, hen, rfl⟩
      · exact (mem_queueTowards hen).imp_right fun h => ⟨h, Bool.eq_false_iff.2 ‹_›⟩
  · rw [s.takeTarget_discarded e m hm]
    exact hs

theorem enginesRight_takeRestartPosting (hs : EnginesRight s) (e : Domain) (m : Module) (p : Port) :
    EnginesRight (s.takeRestartPosting e m p) := by
  by_cases hown : (s.engineDir m).present = true ∧ (s.engineDir m).domain = e
  · obtain ⟨hpresent, hdomain⟩ := hown
    by_cases hf : (s.modAt m).state = .fault
    · rw [State.takeRestartPosting_fails hpresent hdomain hf]
      exact enginesRight_of_engines (s := s) rfl hs
    · have hm : s.faultable e m = true := State.faultable_iff.2 ⟨hpresent, hdomain, hf⟩
      have hr := (hs.sound.modules m).1
      rw [State.takeRestartPosting_eq_write hpresent hdomain hf]
      split
      · rename_i hstep
        obtain ⟨harmed, hwoken, hcause, hfault, -⟩ := hr
        refine EngineWrite.Mild.enginesRight (mild_of_queue (q := s.engines.recs[e].queue) hm ?_ rfl rfl rfl
          (hs.sound.queues e).1 fun en hen => .inl ⟨en, hen, rfl⟩) hs
        exact ⟨harmed, hwoken, hcause, hfault, fun hrest => absurd hstep (Bool.eq_false_iff.1 hrest)⟩
      · exact (mild_of_queue hm hr rfl rfl rfl (nodup_queueRestart (hs.sound.queues e).1)
          fun en hen => (mem_queueRestart hen).imp_right fun h => ⟨h, Bool.eq_false_iff.2 ‹_›⟩).enginesRight hs
  · have hsame : s.takeRestartPosting e m p = s := by
      rw [State.takeRestartPosting, if_neg]
      simpa using hown
    rw [hsame]
    exact hs

end

/-! ### Modules that enter and leave FAULT (R95, R144, R145) -/

section
variable {s : State} {e : Domain} {m : Module}

theorem ModRec.faulted_right (r : ModRec) (c : ModCause) : (r.faulted c).right := by
  simp [ModRec.right, ModRec.faulted, ModRec.atRest, ModRec.lines, PhysState.lines]

theorem ModRec.quieted_right (r : ModRec) : r.quieted.right := by
  simp [ModRec.right, ModRec.quieted, ModRec.atRest, ModRec.lines, PhysState.lines]

theorem EngineRec.without_timer {g : EngineRec} (h : g.timer.isSome = true ↔ g.work ≠ .idle) (m : Module) :
    (g.without m).timer.isSome = true ↔ (g.without m).work ≠ .idle := by
  by_cases hw : workWithout m g.work = g.work
  · simp only [EngineRec.without, hw, if_true]
    exact h
  · have hidle : workWithout m g.work = .idle := by
      cases hg : g.work with
      | idle => rfl
      | ramp => rw [hg] at hw; exact absurd rfl hw
      | transition t =>
        by_cases ht : t.module = m
        · rw [workWithout, if_pos ht]
        · rw [hg, workWithout, if_neg ht] at hw; exact absurd rfl hw
    simp only [EngineRec.without, hidle]
    rw [if_neg (by rw [← hidle]; exact hw)]
    simp

/-- The engine of a module lets go of it, and leaves it at rest. -/
theorem fits_without {w : EngineWrite} (hs : EnginesSound s) (hd : (s.engineDir m).domain = e) (hr : w.mod.right)
    (habsent : (s.engineDir m).present = false → w.mod.state = .off ∧ w.mod.wanted = .off)
    (hstep : w.mod.stepping = false) (heng : w.eng = s.engines.recs[e].without m) : w.Fits s e m where
  domain := hd
  right := hr
  absent ha := ⟨(habsent ha).1, hstep, (habsent ha).2⟩
  once := by rw [heng]; exact (hs.queues e).1.sublist (List.filter_sublist.map _)
  others en hen _ := by rw [heng] at hen; exact ⟨en, (mem_withoutEntry.1 hen).1, rfl⟩
  own en hen hm := by rw [heng] at hen; exact absurd hm (mem_withoutEntry.1 hen).2
  flight := .rests hstep (by rw [heng]; rfl)
  timer := by rw [heng]; exact EngineRec.without_timer (hs.timers e) m

theorem enginesSound_faultModule (hs : EnginesSound s) (hm : s.faultable e m = true) (c : ModCause) :
    EnginesSound (s.faultModule e m c) := by
  obtain ⟨hpresent, hdomain, -⟩ := State.faultable_iff.1 hm
  rw [State.faultModule_eq_write]
  exact enginesSound_write hs (fits_without hs hdomain (ModRec.faulted_right _ c)
    (fun h => by rw [hpresent] at h; cases h) rfl rfl)

/-- FAULT is a state that every power of a domain allows (R112). -/
theorem ModRec.faulted_powered (r : ModRec) (c : ModCause) (d : DomState) : (r.faulted c).powered d :=
  fun _ => ⟨rfl, .inr rfl, fun _ => rfl⟩

theorem enginesRight_faultModule (hs : EnginesRight s) (hm : s.faultable e m = true) (c : ModCause) :
    EnginesRight (s.faultModule e m c) := by
  refine (enginesSound_faultModule hs.sound hm c).right ?_
  rw [State.faultModule_eq_write]
  exact powerRight_write hs.power fun _ => ModRec.faulted_powered (s.modAt m) c _

/-- A module in FAULT has no entry, and no transition in flight (R80, R95). -/
theorem EnginesSound.no_entry_of_fault (hs : EnginesSound s) (hf : (s.modAt m).state = .fault) (d : Domain) :
    ∀ en ∈ s.engines.recs[d].queue, en.module ≠ m := by
  rintro en hen rfl
  exact State.not_fault_of_faultable (hs.entry hen).1 hf

/-- The release rule keeps a module in FAULT, or lets it leave to OFF where its domain is not in FAULT (R144, R145). -/
theorem enginesRight_releaseModule (hs : EnginesRight s) (hf : (s.modAt m).state = .fault) (e : Domain) :
    EnginesRight (s.releaseModule e m) := by
  obtain ⟨⟨harmed, hwoken, -, hfault, hrest⟩, -⟩ := hs.sound.modules m
  obtain ⟨hwanted, hstep⟩ := hfault hf
  obtain ⟨⟨-, hlines⟩, hpending⟩ := hrest hstep
  have hwork : workWithout m s.engines.recs[s.engineOf m].work = s.engines.recs[s.engineOf m].work :=
    workWithout_self fun t ht => hs.sound.not_in_flight hstep _ ht
  unfold State.releaseModule
  split
  · rw [s.onMod_eq_write (s.engineOf m) m]
    refine EngineWrite.Mild.enginesRight (mild_of_record hs.sound ?_ hs.sound.unwanted rfl rfl rfl) hs
    exact ⟨harmed, hwoken, by simp [hf], hfault, hrest⟩
  · rename_i hnone
    have hnf : s.domState (s.engineOf m) ≠ .fault := by
      intro hd
      have hd' : s.domState s.engines.dir[m].domain = .fault := hd
      rw [State.releaseOutcome, if_pos hd'] at hnone
      cases hnone
    refine enginesRight_of_engines (s := s.onMod m fun r =>
      { r with state := .off, armed := false, woken := false, cause := none }) rfl ?_
    rw [s.onMod_eq_write (s.engineOf m) m]
    refine enginesRight_write hs ⟨rfl, ?_, fun _ => ⟨rfl, hstep, hwanted⟩, (hs.sound.queues _).1,
      fun en hen _ => ⟨en, hen, rfl⟩, fun en hen hm => absurd hm (hs.sound.no_entry_of_fault hf _ en hen),
      .rests hstep hwork.symm, hs.sound.timers _⟩ fun _ _ => ⟨hstep, .inl rfl, fun h => absurd h hnf⟩
    refine ModRec.right_of_no_fault (fun h => by cases h) (fun h => by cases h) rfl (by simp) fun _ => ⟨⟨by simp, ?_⟩, hpending⟩
    rw [hf] at hlines
    exact hlines

end

/-! ### A domain enters FAULT, and is cleared (R110, R143, R150) -/

section
variable {s : State} {x : SwDom}

/-- A module of engine `e`, present and not in FAULT, enters FAULT with its domain (R110). -/
def State.faultOwn (e : Domain) (s : State) (m : Module) : State :=
  if s.faultable e m then s.faultModule e m .domain else s

/-- What the faulting of an engine's modules leaves. -/
structure FaultedWithin (e : Domain) (s t : State) : Prop where
  sound : EnginesSound t
  dir : t.engines.dir = s.engines.dir
  doms : t.engines.doms = s.engines.doms
  others : ∀ k : Module, s.engineOf k ≠ e → t.modAt k = s.modAt k
  stays : ∀ k : Module, (s.modAt k).state = .fault → (t.modAt k).state = .fault

theorem FaultedWithin.trans {e : Domain} {s t u : State} (h : FaultedWithin e s t) (k : FaultedWithin e t u) :
    FaultedWithin e s u where
  sound := k.sound
  dir := k.dir.trans h.dir
  doms := k.doms.trans h.doms
  others m hm := by
    have hof : t.engineOf m = s.engineOf m := by rw [State.engineOf, State.engineDir, h.dir]; rfl
    rw [k.others m (by rw [hof]; exact hm), h.others m hm]
  stays m hm := k.stays m (h.stays m hm)

theorem faultedWithin_faultOwn {e : Domain} (hs : EnginesSound s) (m : Module) :
    FaultedWithin e s (s.faultOwn e m) := by
  unfold State.faultOwn
  split
  · rename_i hm
    have hw := s.faultModule_eq_write e m .domain
    refine ⟨enginesSound_faultModule hs hm _, by rw [hw]; rfl, by rw [hw]; rfl, fun k hk => ?_, fun k hk => ?_⟩
    · rw [hw, State.write_modAt_ne]
      rintro rfl
      exact hk (State.engineOf_of_faultable hm)
    · rw [hw]
      by_cases hkm : k = m
      · rw [hkm, State.write_modAt]; rfl
      · rw [State.write_modAt_ne _ _ _ _ hkm]; exact hk
  · exact ⟨hs, rfl, rfl, fun _ _ => rfl, fun _ h => h⟩

/-- A present module of the engine is in FAULT once it is taken. -/
theorem State.faultOwn_state {e : Domain} {m : Module} (hp : (s.engineDir m).present = true)
    (hd : s.engineOf m = e) : ((s.faultOwn e m).modAt m).state = .fault := by
  unfold State.faultOwn
  split
  · rw [State.faultModule_eq_write, State.write_modAt]; rfl
  · rename_i hm
    by_contra hf
    exact hm (State.faultable_iff.2 ⟨hp, hd, hf⟩)

theorem faultedWithin_foldl {e : Domain} (l : List Module) (hs : EnginesSound s) :
    FaultedWithin e s (l.foldl (State.faultOwn e) s) ∧
      ∀ m ∈ l, (s.engineDir m).present = true → s.engineOf m = e →
        ((l.foldl (State.faultOwn e) s).modAt m).state = .fault := by
  induction l generalizing s with
  | nil => exact ⟨⟨hs, rfl, rfl, fun _ _ => rfl, fun _ h => h⟩, fun m hm => by cases hm⟩
  | cons a l ih =>
    have hstep := faultedWithin_faultOwn (e := e) hs a
    obtain ⟨hrest, hall⟩ := ih hstep.sound
    have hdir (k : Module) : (s.faultOwn e a).engineDir k = s.engineDir k := by
      rw [State.engineDir, hstep.dir]; rfl
    refine ⟨hstep.trans hrest, fun m hm hp hd => ?_⟩
    rcases List.mem_cons.1 hm with rfl | hm
    · exact hrest.stays m (State.faultOwn_state hp hd)
    · exact hall m hm (by rw [hdir]; exact hp) (by rw [State.engineOf, hdir]; exact hd)

/-- The record of a domain in FAULT (R110). -/
def DomRec.faulted (r : DomRec) (c : DomCause) : DomRec :=
  { r with state := .fault, cause := some c, lingerCount := none, dsw := false, isoReleased := false }

/-- An engine whose ramp has ended, if it had one in flight. -/
def EngineRec.rampless (g : EngineRec) : EngineRec := if g.work = .ramp then g.rested else g

theorem State.faultDomain_eq (c : DomCause) :
    s.faultDomain x c =
      (((allModules.foldl (State.faultOwn x.domain)
        (s.writeDom x (s.engines.doms[x].faulted c) s.engines.recs[x.domain].rampless)).onRec x.domain fun g =>
          { g with queue := [] }).alert 0 (.domain x) .domainFault) := rfl

theorem domFits_faulted (hs : EnginesSound s) (c : DomCause) :
    DomFits s x (s.engines.doms[x].faulted c) s.engines.recs[x.domain].rampless := by
  have hright : (s.engines.doms[x].faulted c).right := by simp [DomRec.right, DomRec.faulted]
  have hnoRamp : ¬((s.engines.doms[x].faulted c).state = .rampUp ∨ (s.engines.doms[x].faulted c).state = .rampDown) := by
    rw [show (s.engines.doms[x].faulted c).state = .fault from rfl]; decide
  unfold EngineRec.rampless
  split
  · rename_i hw
    have hn (t : Transition) : s.engines.recs[x.domain].work ≠ .transition t := by rw [hw]; exact nofun
    exact ⟨hright, rfl, flight_of_no_transition nofun hn, iff_of_false nofun hnoRamp, iff_of_false nofun (absurd rfl)⟩
  · rename_i hw
    exact ⟨hright, rfl, fun _ => .rfl, iff_of_false hw hnoRamp, hs.timers _⟩

/-- A domain enters FAULT with every present module of it, and its queue is empty (R110). -/
theorem enginesRight_faultDomain (hs : EnginesRight s) (x : SwDom) (c : DomCause) :
    EnginesRight (s.faultDomain x c) := by
  have hbegun := enginesSound_writeDom hs.sound (domFits_faulted (x := x) hs.sound c)
  obtain ⟨hrest, hall⟩ := faultedWithin_foldl (e := x.domain) allModules hbegun
  rw [State.faultDomain_eq]
  generalize hb : s.writeDom x (s.engines.doms[x].faulted c) s.engines.recs[x.domain].rampless = b at *
  generalize ht : allModules.foldl (State.faultOwn x.domain) b = t at *
  have hdir (k : Module) : t.engineDir k = s.engineDir k := by
    rw [State.engineDir, hrest.dir, ← hb]; rfl
  have hfault (k : Module) (hp : (s.engineDir k).present = true) (hd : s.engineOf k = x.domain) :
      (t.modAt k).state = .fault := hall k (mem_allModules k) (by rw [← hb]; exact hp) (by rw [← hb]; exact hd)
  have hqueue : t.engines.recs[x.domain].queue = [] := by
    refine List.eq_nil_iff_forall_not_mem.2 fun en hen => ?_
    obtain ⟨hp, hd, hf⟩ := State.faultable_iff.1 (hrest.sound.entry hen).1
    rw [hdir] at hp hd
    exact hf (hfault en.module hp hd)
  have hsame : (t.onRec x.domain fun g => { g with queue := [] }) = t := by
    have hrec : ({ t.engines.recs[x.domain] with queue := [] } : EngineRec) = t.engines.recs[x.domain] := by
      rw [← hqueue]
    rw [t.onRec_eq_write x.domain 0, hrec]
    exact t.write_kept ..
  rw [hsame]
  refine enginesRight_of_engines (s := t) rfl (hrest.sound.right fun k hk => ?_)
  rw [hdir] at hk
  rw [State.engineOf, hdir]
  by_cases hd : s.engineOf k = x.domain
  · intro _
    have hf := hfault k hk hd
    obtain ⟨⟨-, -, -, hrested, -⟩, -⟩ := hrest.sound.modules k
    exact ⟨(hrested hf).2, .inr hf, fun _ => hf⟩
  · have hdom : t.domState (s.engineOf k) = s.domState (s.engineOf k) := by
      rw [State.domState, hrest.doms, ← State.domState, ← hb, State.writeDom_domState_ne _ _ _ _ hd]
    have hmod : t.modAt k = s.modAt k := by
      rw [hrest.others k (by rw [← hb]; exact hd), ← hb, State.writeDom_modAt]
    rw [hmod]
    change t.domState (s.engineOf k) ≠ .on → _ ∧ _ ∧ (t.domState (s.engineOf k) = .fault → _)
    rw [hdom]
    exact hs.power k hk

theorem enginesRight_releaseDomainModules (hs : EnginesRight s) (x : SwDom) :
    EnginesRight (s.releaseDomainModules x) := by
  unfold State.releaseDomainModules
  refine foldl_keeps EnginesRight _ (fun u m hu => ?_) _ _ hs
  split
  · rename_i h
    obtain ⟨-, -, hfault, -⟩ := h
    exact enginesRight_releaseModule hu hfault _
  · exact hu

/-- A domain in FAULT is cleared: it is OFF, its modules still in FAULT (R111, R150). -/
theorem enginesRight_clearDomain (hs : EnginesRight s) (h : s.engines.doms[x].state = .fault) :
    EnginesRight (s.onDom x fun r => { r with state := .off, cause := none }) := by
  have hcleared {r : DomRec} (hr : r.right) (hf : r.state = .fault) :
      ({ r with state := .off, cause := none } : DomRec).right := by
    have hcount := hr.count_none (by simp [hf])
    obtain ⟨hdsw, hiso, -⟩ := hr
    simp_all [DomRec.right]
  rw [State.onDom_eq_writeDom]
  exact enginesRight_writeDom hs (domFits_kept hs.sound (hcleared (hs.dom x) h) (by rw [h]; simp))
    ((hs.poweredBy x).mono (by rw [h]; decide) (by simp))

end

end Sys2Proof.Machine


namespace Sys2Proof.Machine

/-! ### A SET MODULE hand-over at the engines (R74, R78, R111, R169) -/

/-- The engines' copy of the directory takes a record (R74). -/
def State.withDir (s : State) (m : Module) (r : DirRecord) : State :=
  s.onEngines fun g => { g with dir := g.dir.set m r }

section
variable {s : State} {m : Module} {r : DirRecord}

theorem State.withDir_modAt (k : Module) : (s.withDir m r).modAt k = s.modAt k := rfl

theorem State.withDir_engineDir : (s.withDir m r).engineDir m = r := set_get_self ..

theorem State.withDir_engineDir_ne {k : Module} (h : k ≠ m) : (s.withDir m r).engineDir k = s.engineDir k :=
  set_get_ne _ _ h

theorem State.withDir_faultable_ne {e : Domain} {k : Module} (h : k ≠ m) :
    (s.withDir m r).faultable e k = s.faultable e k := by
  rw [State.faultable, State.withDir_engineDir_ne h]
  rfl

theorem State.withDir_faultable {e : Domain} :
    (s.withDir m r).faultable e m = true ↔ r.present = true ∧ r.domain = e ∧ (s.modAt m).state ≠ .fault := by
  rw [State.faultable_iff, State.withDir_engineDir]
  rfl

/-- A record that leaves the module's entry and transition with the engine that has them, or meets a module with none. -/
structure DirFits (s : State) (m : Module) (r : DirRecord) : Prop where
  entry : ∀ d : Domain, ∀ en ∈ s.engines.recs[d].queue, en.module = m → r.present = true ∧ r.domain = d
  stepping : (s.modAt m).stepping = true → r.present = true ∧ r.domain = s.engineOf m
  absent : r.present = false → (s.modAt m).state = .off ∧ (s.modAt m).wanted = .off

theorem enginesSound_withDir (hs : EnginesSound s) (h : DirFits s m r) : EnginesSound (s.withDir m r) := by
  refine ⟨fun k => ⟨(hs.modules k).1, fun hk => ?_⟩, fun d => ⟨(hs.queues d).1, fun en hen => ?_⟩,
    ⟨fun d t ht => ?_, fun k hk => ?_⟩, hs.domains, hs.ramps, hs.timers⟩
  · by_cases hkm : k = m
    · subst hkm
      rw [State.withDir_engineDir] at hk
      obtain ⟨hstate, hwanted⟩ := h.absent hk
      refine ⟨hstate, Bool.eq_false_iff.2 fun hstep => ?_, hwanted⟩
      rw [(h.stepping hstep).1] at hk
      cases hk
    · rw [State.withDir_engineDir_ne hkm] at hk
      exact (hs.modules k).2 hk
  · obtain ⟨hfault, hrest⟩ := hs.entry hen
    refine ⟨?_, hrest⟩
    by_cases hm : en.module = m
    · obtain ⟨hp, hd⟩ := h.entry d en hen hm
      rw [hm] at hfault ⊢
      exact State.withDir_faultable.2 ⟨hp, hd, State.not_fault_of_faultable hfault⟩
    · rw [State.withDir_faultable_ne hm]
      exact hfault
  · obtain ⟨hfault, hstep, hpath⟩ := hs.transitions.1 d t ht
    refine ⟨?_, hstep, hpath⟩
    by_cases hm : t.module = m
    · rw [hm] at hfault hstep ⊢
      obtain ⟨hp, hd⟩ := h.stepping hstep
      obtain ⟨-, hdomain, hstate⟩ := State.faultable_iff.1 hfault
      exact State.withDir_faultable.2 ⟨hp, hd.trans hdomain, hstate⟩
    · rw [State.withDir_faultable_ne hm]
      exact hfault
  · have hof : (s.withDir m r).engineOf k = s.engineOf k := by
      by_cases hkm : k = m
      · subst hkm
        rw [State.engineOf, State.withDir_engineDir]
        exact (h.stepping hk).2
      · rw [State.engineOf, State.withDir_engineDir_ne hkm]
        rfl
    rw [hof]
    exact hs.transitions.2 k hk

/-- The power of the domains, for every module but `m` (R112). -/
abbrev PowerRightBut (m : Module) (s : State) : Prop :=
  ∀ k : Module, k ≠ m → (s.engineDir k).present = true → (s.modAt k).powered (s.domState (s.engineOf k))

theorem PowerRightBut.withDir (h : PowerRightBut m s) : PowerRightBut m (s.withDir m r) := fun k hk hp => by
  rw [State.withDir_engineDir_ne hk] at hp
  rw [State.engineOf, State.withDir_engineDir_ne hk]
  exact h k hk hp

theorem PowerRightBut.write (h : PowerRightBut m s) (e : Domain) (w : EngineWrite) :
    PowerRightBut m (s.write e m w) := fun k hk hp => by
  rw [State.write_modAt_ne _ _ _ _ hk]
  exact h k hk hp

/-- A record's times change (R78). -/
theorem enginesSound_setTiming (hs : EnginesSound s) (m : Module) (ack hold idle : Nat) :
    EnginesSound (s.onMod m fun q => { q with ackTimeout := ack, resetHold := hold, idleWindow := idle }) := by
  obtain ⟨hr, habsent⟩ := hs.modules m
  rw [s.onMod_eq_write (s.engineOf m) m]
  exact enginesSound_write hs (EngineWrite.Mild.fits (mild_of_record hs hr hs.unwanted rfl rfl rfl) hs)

theorem State.onMod_modAt (f : ModRec → ModRec) : (s.onMod m f).modAt m = f (s.modAt m) := by
  rw [s.onMod_eq_write 0 m, State.write_modAt]

theorem PowerRightBut.onMod (h : PowerRightBut m s) (f : ModRec → ModRec) : PowerRightBut m (s.onMod m f) := by
  rw [s.onMod_eq_write 0 m]
  exact h.write 0 _

/-- The engines once the record is written and module `m` stands in its new place: sound, and with power as it should
be, but perhaps for a module that joins a domain in FAULT (R111). -/
structure Moved (m : Module) (r : DirRecord) (joins : Prop) (s : State) : Prop where
  sound : EnginesSound s
  dir : s.engineDir m = r
  others : PowerRightBut m s
  own : r.present = true → (s.modAt m).powered (s.domState r.domain) ∨
    joins ∧ s.domState r.domain = .fault ∧ (s.modAt m).state ≠ .fault

/-- A module that joins a domain in FAULT enters FAULT with it (R111). -/
theorem Moved.enginesRight {joins : Prop} [Decidable joins] (hj : joins → r.present = true) (h : Moved m r joins s) :
    EnginesRight (if joins ∧ s.domState r.domain = .fault ∧ (s.modAt m).state ≠ .fault then
      s.faultModule r.domain m .domain else s) := by
  split
  · rename_i hc
    obtain ⟨hjoins, -, hstate⟩ := hc
    have hm : s.faultable r.domain m = true :=
      State.faultable_iff.2 ⟨by rw [h.dir]; exact hj hjoins, by rw [h.dir], hstate⟩
    refine (enginesSound_faultModule h.sound hm _).right ?_
    rw [State.faultModule_eq_write]
    have hothers := h.others.write r.domain (s.faulting r.domain m .domain)
    intro k hk
    by_cases hkm : k = m
    · rw [hkm, State.write_modAt]
      exact ModRec.faulted_powered (s.modAt m) _ _
    · exact hothers k hkm hk
  · rename_i hc
    refine h.sound.right fun k hk => ?_
    by_cases hkm : k = m
    · subst hkm
      rw [h.dir] at hk
      rw [State.engineOf, h.dir]
      exact (h.own hk).resolve_right hc
    · exact h.others k hkm hk

/-- A module made present has the default times (R78). -/
theorem Moved.timed {joins : Prop} (h : Moved m r joins s) (c : Prop) [Decidable c] :
    Moved m r joins (if c then
      s.onMod m fun q =>
        { q with ackTimeout := Config.defaultAckTimeout, resetHold := Config.defaultResetHold
                 idleWindow := Config.defaultIdleWindow }
    else s) := by
  split
  · refine ⟨enginesSound_setTiming h.sound .., h.dir, h.others.onMod _, fun hp => ?_⟩
    rw [State.onMod_modAt]
    exact h.own hp
  · exact h

/-- A module that stands OFF at rest may join any domain, to enter FAULT with one in FAULT. -/
theorem powered_or_joins {q : ModRec} {d : DomState} {joins : Prop} (hj : joins) (hstate : q.state = .off)
    (hstep : q.stepping = false) : q.powered d ∨ joins ∧ d = .fault ∧ q.state ≠ .fault := by
  by_cases hd : d = .fault
  · exact .inr ⟨hj, hd, by rw [hstate]; decide⟩
  · exact .inl fun _ => ⟨hstep, .inl hstate, fun h => absurd h hd⟩

theorem EnginesRight.powerBut (hs : EnginesRight s) (m : Module) : PowerRightBut m s := fun k _ hk => hs.power k hk

/-- The old engine lets go of the module, and the record is written (R74, R169). -/
theorem moved_of_quieted (hs : EnginesRight s) (hj : r.present = true → (s.engineDir m).domain ≠ r.domain) :
    Moved m r (r.present = true ∧ ((s.engineDir m).present = false ∨ (s.engineDir m).domain ≠ r.domain))
      (((s.withDir m r).letGo (s.engineDir m).domain m).onMod m (·.quieted)) := by
  have hcomm : ((s.withDir m r).letGo (s.engineDir m).domain m).onMod m (·.quieted) =
      ((s.letGo (s.engineDir m).domain m).onMod m (·.quieted)).withDir m r := rfl
  rw [hcomm, State.quieted_eq_write]
  have hsound : EnginesSound (s.write (s.engineDir m).domain m (s.quieting (s.engineDir m).domain m)) :=
    enginesSound_write hs.sound
      (fits_without hs.sound rfl (ModRec.quieted_right _) (fun _ => ⟨rfl, rfl⟩) rfl rfl)
  have hothers := (hs.powerBut m).write (s.engineDir m).domain (s.quieting (s.engineDir m).domain m)
  refine ⟨enginesSound_withDir hsound ⟨fun d en hen hm => ?_, fun hstep => ?_, fun _ => ?_⟩, State.withDir_engineDir,
    hothers.withDir, fun hp => ?_⟩
  · by_cases hd : d = (s.engineDir m).domain
    · subst hd
      rw [State.write_recs] at hen
      exact absurd hm (mem_withoutEntry.1 hen).2
    · rw [State.write_recs_ne _ _ _ _ hd] at hen
      exact absurd hm (hs.sound.entry_ne rfl hd hen)
  · rw [State.write_modAt] at hstep
    cases hstep
  · rw [State.write_modAt]
    exact ⟨rfl, rfl⟩
  · rw [State.withDir_modAt, State.write_modAt]
    exact powered_or_joins ⟨hp, .inr (hj hp)⟩ rfl rfl

/-- The record is written, and the module's own record stays: it stays with its engine, or it was absent, or it is in
FAULT (R74). -/
theorem moved_of_kept (hs : EnginesRight s) (hp : r.present = true)
    (hk : (s.engineDir m).domain = r.domain ∨ (s.modAt m).state = .fault) :
    Moved m r (r.present = true ∧ ((s.engineDir m).present = false ∨ (s.engineDir m).domain ≠ r.domain))
      (s.withDir m r) := by
  have hfit : DirFits s m r := by
    refine ⟨fun d en hen hm => ⟨hp, ?_⟩, fun hstep => ⟨hp, ?_⟩, fun h => by rw [hp] at h; cases h⟩
    · rcases hk with hk | hk
      · rw [← hk, ← hm]
        exact State.engineOf_of_faultable (hs.sound.entry hen).1
      · exact absurd hm (hs.sound.no_entry_of_fault hk d en hen)
    · rcases hk with hk | hk
      · exact hk.symm
      · exact absurd hk ((hs.sound.modules m).1.not_fault_of_stepping hstep)
  refine ⟨enginesSound_withDir hs.sound hfit, State.withDir_engineDir, (hs.powerBut m).withDir, fun _ => ?_⟩
  change (s.modAt m).powered (s.domState r.domain) ∨ _ ∧ s.domState r.domain = .fault ∧ (s.modAt m).state ≠ .fault
  by_cases hf : (s.modAt m).state = .fault
  · obtain ⟨⟨-, -, -, hfault, -⟩, -⟩ := hs.sound.modules m
    exact .inl fun _ => ⟨(hfault hf).2, .inr hf, fun _ => hf⟩
  · have hdomain := hk.resolve_right hf
    cases hpresent : (s.engineDir m).present with
    | true =>
      have hpower := hs.power m hpresent
      rw [State.engineOf, hdomain] at hpower
      exact .inl hpower
    | false =>
      obtain ⟨-, habsent⟩ := hs.sound.modules m
      obtain ⟨hstate, hstep, -⟩ := habsent hpresent
      exact powered_or_joins ⟨hp, .inl rfl⟩ hstate hstep

theorem enginesRight_takeModule (hs : EnginesRight s) (m : Module) (r : DirRecord) :
    EnginesRight (s.takeModule m r) := by
  have hmoved : Moved m r (r.present = true ∧ ((s.engineDir m).present = false ∨ (s.engineDir m).domain ≠ r.domain))
      (if !r.present then ((s.withDir m r).letGo (s.engineDir m).domain m).onMod m (·.quieted)
       else if (s.engineDir m).domain ≠ r.domain ∧ ((s.withDir m r).modAt m).state ≠ .fault then
         ((s.withDir m r).letGo (s.engineDir m).domain m).onMod m (·.quieted)
       else s.withDir m r) := by
    split
    · rename_i hp
      exact moved_of_quieted hs fun h => by rw [h] at hp; cases hp
    · rename_i hp
      split
      · rename_i hc
        exact moved_of_quieted hs fun _ => hc.1
      · rename_i hc
        refine moved_of_kept hs (by simpa using hp) ?_
        by_cases hd : (s.engineDir m).domain = r.domain
        · exact .inl hd
        · exact .inr (not_not.1 fun hf => hc ⟨hd, hf⟩)
  exact enginesRight_settleEngine (enginesRight_settleEngine
    (Moved.enginesRight (fun h => h.1) (hmoved.timed ((r.present && !(s.engineDir m).present) = true))) _) _

end

end Sys2Proof.Machine


namespace Sys2Proof.Machine

/-! ### An engine's event leaves the records of the other engines (R86, R88) -/

theorem State.takeEntry_nothing {s : State} {e : Domain} {en : Entry} (hr : en.restart = none)
    (hp : planOf (s.modAt en.module) en.target = .nothing) :
    s.takeEntry e en = s.write e en.module (s.dequeued e en.module) := by
  have hplan : planOf ((s.write e en.module (s.dequeued e en.module)).modAt en.module) en.target = .nothing := by
    rw [State.write_modAt]; exact hp
  simp only [State.takeEntry, s.dequeue_eq_write, hr, hplan]

section
variable {s : State} {e d : Domain} (hd : d ≠ e)
include hd

theorem State.takeEntry_recs_ne (en : Entry) : (s.takeEntry e en).engines.recs[d] = s.engines.recs[d] := by
  cases hr : en.restart with
  | some p =>
    cases hp : s.restartPasses en.module en.target with
    | true => rw [State.takeEntry_restarts hr hp, State.write_recs_ne _ _ _ _ hd]
    | false => rw [State.takeEntry_fails hr hp, State.write_recs_ne _ _ _ _ hd]
  | none =>
    cases hp : planOf (s.modAt en.module) en.target with
    | up steps => rw [State.takeEntry_up hr hp, State.write_recs_ne _ _ _ _ hd, State.leaveLinger_eq]
    | down steps => rw [State.takeEntry_down hr hp, State.write_recs_ne _ _ _ _ hd]
    | flagOnly => rw [State.takeEntry_flagOnly hr hp, State.write_recs_ne _ _ _ _ hd]
    | nothing => rw [State.takeEntry_nothing hr hp, State.write_recs_ne _ _ _ _ hd]

theorem State.beginRampUp_recs_ne {x : SwDom} (hx : x.domain = e) :
    (s.beginRampUp x).engines.recs[d] = s.engines.recs[d] := by
  rw [State.beginRampUp_eq]
  split <;> exact State.writeDom_recs_ne _ _ _ _ (by rw [hx]; exact hd)

theorem State.beginRampDown_recs_ne {x : SwDom} (hx : x.domain = e) :
    (s.beginRampDown x).engines.recs[d] = s.engines.recs[d] := by
  rw [State.beginRampDown_eq]
  split <;> exact State.writeDom_recs_ne _ _ _ _ (by rw [hx]; exact hd)

theorem State.leaveOn_recs_ne {x : SwDom} (hx : x.domain = e) :
    (s.leaveOn x).engines.recs[d] = s.engines.recs[d] := by
  unfold State.leaveOn
  dsimp only
  split
  · exact State.beginRampDown_recs_ne hd hx
  · rfl

theorem State.engineMove_recs_ne {t : State} (h : s.engineMove e = some t) :
    t.engines.recs[d] = s.engines.recs[d] := by
  obtain ⟨_, ⟨x, hx, _, rfl⟩ | ⟨en, _, _, rfl⟩ | ⟨x, hx, _, rfl⟩⟩ := State.engineMove_cases h
  · exact State.beginRampUp_recs_ne hd (switchedOf_eq_some.1 hx)
  · exact State.takeEntry_recs_ne hd en
  · exact State.leaveOn_recs_ne hd (switchedOf_eq_some.1 hx)

theorem State.settleEngine_recs_ne : (s.settleEngine e).engines.recs[d] = s.engines.recs[d] :=
  State.settleEngine_keeps (fun u => u.engines.recs[d] = s.engines.recs[d]) e s
    (fun _ _ hu hv => (State.engineMove_recs_ne hd hv).trans hu) rfl

end

/-! ### Time at the engines (R45, R46, R104) -/

section
variable {s : State}

theorem State.countUnits_inFlight (n : Nat) (d : Domain) : (s.countUnits n).inFlight d = s.inFlight d := by
  rw [State.inFlight, State.countUnits_rec]
  rfl

/-- The counting of units lowers the step timers, and no more (R45). -/
theorem enginesRight_countUnits (hs : EnginesRight s) (n : Nat) : EnginesRight (s.countUnits n) := by
  refine EnginesSound.right ⟨hs.sound.modules, fun d => ?_, ⟨fun d t ht => ?_, fun m hm => ?_⟩, hs.sound.domains,
    ⟨?_, fun x => ?_⟩, fun d => ?_⟩ hs.power
  · rw [State.countUnits_rec]
    exact hs.sound.queues d
  · rw [State.countUnits_inFlight] at ht
    exact hs.sound.transitions.1 d t ht
  · rw [State.countUnits_inFlight]
    exact hs.sound.transitions.2 m hm
  · rw [State.countUnits_rec]
    exact hs.sound.ramps.1
  · rw [State.countUnits_rec]
    exact hs.sound.ramps.2 x
  · rw [State.countUnits_rec, Option.isSome_map]
    exact hs.sound.timers d

theorem State.takeCtTick_engines : s.takeCtTick.engines = s.engines := by simp [State.takeCtTick]

theorem State.takeDrTick_engines : s.takeDrTick.engines = s.engines := by simp [State.takeDrTick]

/-- A domain in LINGER has no transition in flight, and no module out of OFF (R103, R112). -/
theorem EnginesRight.lingering (hs : EnginesRight s) {x : SwDom} (h : s.engines.doms[x].state = .linger) :
    (∀ t, s.engines.recs[x.domain].work ≠ .transition t) ∧ PoweredBy s x .linger :=
  ⟨hs.no_transition (by rw [h]; decide), by rw [← h]; exact hs.poweredBy x⟩

theorem DomRec.right.counted_down {r : DomRec} (h : r.right) (hl : r.state = .linger) {n : Nat} (hn : n ≠ 0) :
    ({ r with lingerCount := some n } : DomRec).right := by
  have hcause := h.cause_none (by simp [hl])
  obtain ⟨hdsw, hiso, -⟩ := h
  simp_all [DomRec.right, Nat.one_le_iff_ne_zero]

/-- The tick at an engine lowers a linger count, or takes a domain out of LINGER (R104). -/
theorem enginesRight_takeEngineTick (hs : EnginesRight s) (e : Domain) : EnginesRight (s.takeEngineTick e) := by
  have htick : EnginesRight (s.onTicks fun t => { t with eng := t.eng.set e false }) := enginesRight_of_engines rfl hs
  unfold State.takeEngineTick
  generalize (s.onTicks fun t => { t with eng := t.eng.set e false }) = u at htick
  dsimp only
  split
  · exact htick
  · rename_i x _
    split
    · exact htick
    · split
      · rename_i n hcount hl
        obtain ⟨hn, hp⟩ := htick.lingering hl
        split
        · exact enginesRight_settleEngine (enginesRight_beginRampDown htick (by rw [hl]; decide) hn hp) e
        · rw [State.onDom_eq_writeDom]
          refine enginesRight_writeDom htick (domFits_kept htick.sound ((htick.dom x).counted_down hl ?_) .rfl)
            (htick.poweredBy x)
          omega
      · exact htick

/-- The tick at an engine leaves a transition in flight: it is about a domain in LINGER (R103, R104). -/
theorem State.takeEngineTick_inFlight (hs : EnginesRight s) {d : Domain} {t : Transition} (h : s.inFlight d = some t)
    (e : Domain) : (s.takeEngineTick e).inFlight d = some t := by
  rw [State.inFlight_eq_some] at h ⊢
  rw [← h]
  have hon := hs.domain_on h
  unfold State.takeEngineTick
  dsimp only
  split
  · rfl
  · rename_i x hx
    split
    · rfl
    · split
      · rename_i hl
        have hd : d ≠ e := by
          rintro rfl
          rw [State.domState, hx] at hon
          exact absurd (hon.symm.trans hl) (by decide)
        split
        · rw [State.settleEngine_recs_ne hd, State.beginRampDown_recs_ne hd (switchedOf_eq_some.1 hx)]
          rfl
        · rfl
      · rfl

/-- The engines are right, and transition `t` is in flight at engine `d`. -/
structure FlightHolds (d : Domain) (t : Transition) (u : State) : Prop where
  right : EnginesRight u
  flight : u.inFlight d = some t

theorem State.endPeriod_engines (s : State) :
    s.endPeriod.engines = (s.takeWaitingTicks.countUnits s.takeWaitingTicks.timebase.left).engines := rfl

theorem EnginesRight.endPeriod (hs : EnginesRight s) : EnginesRight s.endPeriod := by
  have hticks : EnginesRight s.takeWaitingTicks :=
    State.takeWaitingTicks_keeps EnginesRight (fun _ => enginesRight_of_engines State.takeCtTick_engines)
      (fun _ => enginesRight_of_engines State.takeDrTick_engines) (fun _ e hu => enginesRight_takeEngineTick hu e) hs
  exact enginesRight_of_engines s.endPeriod_engines (enginesRight_countUnits hticks _)

theorem EnginesRight.elapse (hs : EnginesRight s) (n : Nat) : EnginesRight (s.elapse n) :=
  State.elapse_keeps EnginesRight (fun _ d hu => enginesRight_countUnits hu d) (fun _ => EnginesRight.endPeriod) n hs

theorem FlightHolds.of_engines {d : Domain} {t : Transition} {u : State} (h : u.engines = s.engines)
    (hs : FlightHolds d t s) : FlightHolds d t u :=
  ⟨enginesRight_of_engines h hs.right, by rw [State.inFlight, h]; exact hs.flight⟩

theorem FlightHolds.countUnits {d : Domain} {t : Transition} (hs : FlightHolds d t s) (n : Nat) :
    FlightHolds d t (s.countUnits n) :=
  ⟨enginesRight_countUnits hs.right n, by rw [State.countUnits_inFlight]; exact hs.flight⟩

theorem FlightHolds.endPeriod {d : Domain} {t : Transition} (hs : FlightHolds d t s) : FlightHolds d t s.endPeriod := by
  have hticks : FlightHolds d t s.takeWaitingTicks :=
    State.takeWaitingTicks_keeps (FlightHolds d t) (fun _ => .of_engines State.takeCtTick_engines)
      (fun _ => .of_engines State.takeDrTick_engines)
      (fun _ e hu => ⟨enginesRight_takeEngineTick hu.right e, State.takeEngineTick_inFlight hu.right hu.flight e⟩) hs
  exact .of_engines s.endPeriod_engines (hticks.countUnits _)

/-- The passing of time leaves a transition in flight where it is (R45, R46, R104). -/
theorem FlightHolds.elapse {d : Domain} {t : Transition} (hs : FlightHolds d t s) (n : Nat) :
    FlightHolds d t (s.elapse n) :=
  State.elapse_keeps (FlightHolds d t) (fun _ n hu => hu.countUnits n) (fun _ => FlightHolds.endPeriod) n hs

end

end Sys2Proof.Machine


namespace Sys2Proof.Machine

/-! ### What does not touch the engines: ports, the claim table and the demand resolver -/

section
variable {s : State}

theorem State.awake_engines (f : State → State) (h : (f s).engines = s.engines) :
    (s.awake f).engines = s.engines :=
  State.awake_keeps (fun u => u.engines = s.engines) f rfl fun _ => h

theorem State.takeClaimed_engines (m : Module) (l : Level) : (s.takeClaimed m l).engines = s.engines := by
  simp [State.takeClaimed]

theorem State.takeState_engines (m : Module) (v : DrView) : (s.takeState m v).engines = s.engines := by
  simp [State.takeState]

theorem State.takeDrFault_engines (m : Module) : (s.takeDrFault m).engines = s.engines := by
  unfold State.takeDrFault
  split <;> simp

theorem State.takeModuleDr_engines (m : Module) (r : DirRecord) : (s.takeModuleDr m r).engines = s.engines := by
  rw [State.takeModuleDr_eq]
  simp

theorem State.takeWakeRise_engines (m : Module) : (s.takeWakeRise m).engines = s.engines := by
  unfold State.takeWakeRise
  dsimp only
  split
  · simp
  · split
    · simp
    · rfl

theorem State.takeWakeFall_engines (m : Module) : (s.takeWakeFall m).engines = s.engines := by
  unfold State.takeWakeFall
  split <;> simp

theorem State.classify_engines (p : Port) (bytes : List Byte) : (s.classify p bytes).engines = s.engines := by
  unfold State.classify
  repeat' split
  all_goals simp

/-! #### The bodies of the requests -/

/-- A request's body leaves the engines as they are. -/
abbrev KeepsEngines (body : Port → Request → State → State × Answer) : Prop :=
  ∀ p r s, (body p r s).1.engines = s.engines

theorem placeBody_keepsEngines : KeepsEngines placeBody := fun p r s => by
  unfold placeBody
  repeat' split
  all_goals rfl

theorem changeBody_keepsEngines : KeepsEngines changeBody := fun p r s => by
  unfold changeBody
  repeat' split
  all_goals rfl

theorem renewBody_keepsEngines : KeepsEngines renewBody := fun p r s => by
  unfold renewBody
  repeat' split
  all_goals rfl

theorem releaseBody_keepsEngines : KeepsEngines releaseBody := fun p r s => by
  unfold releaseBody
  repeat' split
  all_goals simp

theorem queryClaimBody_keepsEngines : KeepsEngines queryClaimBody := fun p r s => by
  unfold queryClaimBody
  split <;> rfl

theorem queryModuleBody_keepsEngines : KeepsEngines queryModuleBody := fun p r s => by
  rw [queryModuleBody_unchanged]

theorem queryDomainBody_keepsEngines : KeepsEngines queryDomainBody := fun p r s => by
  unfold queryDomainBody
  split <;> rfl

theorem browseBody_keepsEngines : KeepsEngines browseBody := fun p r s => by
  unfold browseBody
  split <;> rfl

theorem browseNextBody_keepsEngines : KeepsEngines browseNextBody := fun p r s => by
  unfold browseNextBody
  repeat' split
  all_goals rfl

theorem takeChangeBody_keepsEngines : KeepsEngines takeChangeBody := fun p r s => by
  unfold takeChangeBody
  split <;> rfl

theorem takeAlertBody_keepsEngines : KeepsEngines takeAlertBody := fun p r s => by
  unfold takeAlertBody
  split <;> rfl

theorem setNotifyBody_keepsEngines : KeepsEngines setNotifyBody := fun p r s => by
  unfold setNotifyBody
  split <;> rfl

theorem detachBody_keepsEngines : KeepsEngines detachBody := fun p r s => by simp [detachBody]

theorem restartBody_keepsEngines : KeepsEngines restartBody := fun p r s => by
  unfold restartBody
  repeat' split
  all_goals rfl

theorem clearModuleFaultBody_keepsEngines : KeepsEngines clearModuleFaultBody := fun p r s => by
  unfold clearModuleFaultBody
  repeat' split
  all_goals rfl

/-- What a control-port body keeps as HP0, its command keeps for every port (R158). -/
theorem controlOnly_keepsEngines {body : Request → State → State × Answer}
    (h : ∀ r s, (body r s).1.engines = s.engines) : KeepsEngines (controlOnly body) := fun p r s => by
  unfold controlOnly
  split
  · exact h r s
  · rfl

theorem setModuleBody_keepsEngines : KeepsEngines (controlOnly setModuleBody) :=
  controlOnly_keepsEngines fun r s => by
    obtain ⟨_, h, _⟩ := setModuleBody_sameBlocks r s
    exact h

theorem setModuleTimingBody_keepsEngines : KeepsEngines (controlOnly setModuleTimingBody) :=
  controlOnly_keepsEngines fun r s => by
    unfold setModuleTimingBody
    repeat' split
    all_goals rfl

theorem setDomainBody_keepsEngines : KeepsEngines (controlOnly setDomainBody) :=
  controlOnly_keepsEngines fun r s => by
    unfold setDomainBody
    repeat' split
    all_goals rfl

theorem setKeepOnBody_keepsEngines : KeepsEngines (controlOnly setKeepOnBody) :=
  controlOnly_keepsEngines fun r s => by
    unfold setKeepOnBody
    split <;> rfl

theorem setQuotaBody_keepsEngines : KeepsEngines (controlOnly setQuotaBody) :=
  controlOnly_keepsEngines fun r s => by
    unfold setQuotaBody
    repeat' split
    all_goals rfl

theorem setTickBody_keepsEngines : KeepsEngines (controlOnly setTickBody) :=
  controlOnly_keepsEngines fun r s => by
    unfold setTickBody
    dsimp only
    split <;> rfl

theorem evictBody_keepsEngines : KeepsEngines (controlOnly evictBody) :=
  controlOnly_keepsEngines fun r s => by
    unfold evictBody
    repeat' split
    all_goals simp

theorem retireAllBody_keepsEngines : KeepsEngines (controlOnly retireAllBody) :=
  controlOnly_keepsEngines fun _ s => by simp [retireAllBody]

theorem clearDomainFaultBody_keepsEngines : KeepsEngines (controlOnly clearDomainFaultBody) :=
  controlOnly_keepsEngines fun r s => by
    unfold clearDomainFaultBody
    repeat' split
    all_goals rfl

/-- A request command serves a body that leaves the engines as they are. -/
theorem exec_request_keepsEngines {c : Instr} {code : Byte} (h : requestCode c = some code) :
    ∃ (accepts : Byte → Bool) (body : Port → Request → State → State × Answer),
      KeepsEngines body ∧ ∀ s, exec c s = .next (s.serve accepts body) := by
  cases c with
  | place => exact ⟨_, _, placeBody_keepsEngines, fun _ => rfl⟩
  | change => exact ⟨_, _, changeBody_keepsEngines, fun _ => rfl⟩
  | renew => exact ⟨_, _, renewBody_keepsEngines, fun _ => rfl⟩
  | release => exact ⟨_, _, releaseBody_keepsEngines, fun _ => rfl⟩
  | queryClaim => exact ⟨_, _, queryClaimBody_keepsEngines, fun _ => rfl⟩
  | queryModule => exact ⟨_, _, queryModuleBody_keepsEngines, fun _ => rfl⟩
  | queryDomain => exact ⟨_, _, queryDomainBody_keepsEngines, fun _ => rfl⟩
  | browse => exact ⟨_, _, browseBody_keepsEngines, fun _ => rfl⟩
  | browseNext => exact ⟨_, _, browseNextBody_keepsEngines, fun _ => rfl⟩
  | takeChange => exact ⟨_, _, takeChangeBody_keepsEngines, fun _ => rfl⟩
  | takeAlert => exact ⟨_, _, takeAlertBody_keepsEngines, fun _ => rfl⟩
  | setNotify => exact ⟨_, _, setNotifyBody_keepsEngines, fun _ => rfl⟩
  | restart => exact ⟨_, _, restartBody_keepsEngines, fun _ => rfl⟩
  | clearModuleFault => exact ⟨_, _, clearModuleFaultBody_keepsEngines, fun _ => rfl⟩
  | detach => exact ⟨_, _, detachBody_keepsEngines, fun _ => rfl⟩
  | setModule => exact ⟨_, _, setModuleBody_keepsEngines, fun _ => rfl⟩
  | setModuleTiming => exact ⟨_, _, setModuleTimingBody_keepsEngines, fun _ => rfl⟩
  | setDomain => exact ⟨_, _, setDomainBody_keepsEngines, fun _ => rfl⟩
  | setKeepOn => exact ⟨_, _, setKeepOnBody_keepsEngines, fun _ => rfl⟩
  | setQuota => exact ⟨_, _, setQuotaBody_keepsEngines, fun _ => rfl⟩
  | setTick => exact ⟨_, _, setTickBody_keepsEngines, fun _ => rfl⟩
  | evict => exact ⟨_, _, evictBody_keepsEngines, fun _ => rfl⟩
  | retireAll => exact ⟨_, _, retireAllBody_keepsEngines, fun _ => rfl⟩
  | clearDomainFault => exact ⟨_, _, clearDomainFaultBody_keepsEngines, fun _ => rfl⟩
  | _ => cases h

theorem State.serve_engines {accepts : Byte → Bool} {body : Port → Request → State → State × Answer}
    (h : KeepsEngines body) : (s.serve accepts body).engines = s.engines :=
  State.serve_keeps (fun u => u.engines = s.engines) rfl fun p r _ _ _ => h p r (s.takeRequest p)

end

/-! #### Notices, hand-overs and ticks at the claim table and the demand resolver -/

section
variable {s t : State} {e : Domain} {m : Module} {x : SwDom} {p : Port}

theorem execLevelNotice_engines (h : execLevelNotice e s = .next t) : t.engines = s.engines := by
  cases h
  refine State.awake_engines _ ?_
  split <;> rfl

theorem execRestartStartNotice_engines (h : execRestartStartNotice e s = .next t) : t.engines = s.engines := by
  cases h
  refine State.awake_engines _ ?_
  split <;> rfl

theorem execRestartEndNotice_engines (h : execRestartEndNotice e s = .next t) : t.engines = s.engines := by
  cases h
  refine State.awake_engines _ ?_
  split <;> rfl

theorem execFaultNoticeAtCt_engines (h : execFaultNoticeAtCt e s = .next t) : t.engines = s.engines := by
  cases h
  refine State.awake_engines _ ?_
  split <;> simp

theorem execSetTickHandover_engines (h : execSetTickHandover s = .next t) : t.engines = s.engines := by
  cases h
  refine State.awake_engines _ ?_
  split <;> rfl

theorem execLeaseCountdown_engines (h : execLeaseCountdown s = .next t) : t.engines = s.engines := by
  cases h
  refine State.awake_engines _ ?_
  split
  · exact State.takeCtTick_engines
  · rfl

theorem execLapse_engines {sl : Slot} (h : execLapse sl s = .next t) : t.engines = s.engines := by
  cases h
  refine State.awake_engines _ ?_
  split
  · exact State.takeCtTick_engines
  · rfl

theorem execClaimedLevelNotice_engines (h : execClaimedLevelNotice m s = .next t) : t.engines = s.engines := by
  cases h
  refine State.awake_engines _ ?_
  split
  · rfl
  · exact State.takeClaimed_engines ..

theorem execStateNotice_engines (h : execStateNotice e s = .next t) : t.engines = s.engines := by
  cases h
  refine State.awake_engines _ ?_
  split
  · exact State.takeState_engines ..
  all_goals rfl

theorem execFaultNoticeAtDr_engines (h : execFaultNoticeAtDr e s = .next t) : t.engines = s.engines := by
  cases h
  refine State.awake_engines _ ?_
  split
  · exact State.takeDrFault_engines ..
  all_goals rfl

theorem execSetModuleHandoverDr_engines (h : execSetModuleHandoverDr m s = .next t) : t.engines = s.engines := by
  cases h
  refine State.awake_engines _ ?_
  split
  · rfl
  · exact State.takeModuleDr_engines ..

theorem execSetKeepOnHandover_engines (h : execSetKeepOnHandover x s = .next t) : t.engines = s.engines := by
  cases h
  refine State.awake_engines _ ?_
  split
  · rfl
  · simp

theorem execIdleCountTick_engines (h : execIdleCountTick s = .next t) : t.engines = s.engines := by
  cases h
  refine State.awake_engines _ ?_
  split
  · exact State.takeDrTick_engines
  · rfl

theorem execIdleCountRunsOut_engines (h : execIdleCountRunsOut m s = .next t) : t.engines = s.engines := by
  cases h
  refine State.awake_engines _ ?_
  split
  · exact State.takeDrTick_engines
  · rfl

theorem execAlertPostingReachesPort_engines {j : Subject} {r : Reason}
    (h : execAlertPostingReachesPort p j r s = .next t) : t.engines = s.engines := by
  cases h
  refine State.awake_engines _ ?_
  split <;> rfl

theorem execFrameBegin_engines (h : execFrameBegin p s = .next t) : t.engines = s.engines := by
  cases h
  rfl

theorem execFrameEnd_engines {bits : List Bool} (h : execFrameEnd p bits s = .next t) : t.engines = s.engines := by
  cases h
  split
  · rfl
  · rfl
  · exact State.classify_engines ..

end

end Sys2Proof.Machine


namespace Sys2Proof.Machine

/-! ### Edges of MRDY and DPG at the engines (R90, R94, R102, R107, R109) -/

theorem State.inFlight_of_stoppingClock {s : State} {e : Domain} {m : Module} {t : Transition}
    (h : s.stoppingClock e m = some t) : s.inFlight e = some t := by
  obtain ⟨u, hu, hut⟩ := Option.bind_eq_some_iff.1 h
  split at hut
  · cases hut; exact hu
  · cases hut

section
variable {s : State} (hs : EnginesRight s)
include hs

theorem enginesRight_takeReadyRise (m : Module) : EnginesRight (s.takeReadyRise m) := by
  unfold State.takeReadyRise
  dsimp only
  split
  · exact hs
  · split
    · exact enginesRight_settleEngine (enginesRight_finishStep hs ‹_›) _
    · exact hs

theorem enginesRight_takeReadyFall (m : Module) : EnginesRight (s.takeReadyFall m) := by
  unfold State.takeReadyFall
  dsimp only
  split
  · rename_i hm
    split
    · rename_i t ht
      exact enginesRight_settleEngine (enginesRight_finishStep hs (State.inFlight_of_stoppingClock ht)) _
    · split
      · exact enginesRight_settleEngine (enginesRight_faultModule hs hm _) _
      · exact hs
  · exact hs

theorem enginesRight_takePowerRise (x : SwDom) : EnginesRight (s.takePowerRise x) := by
  unfold State.takePowerRise
  split
  · rename_i h
    exact enginesRight_settleEngine (enginesRight_completeRampUp hs h.1) _
  · exact hs

theorem enginesRight_takePowerFall (x : SwDom) : EnginesRight (s.takePowerFall x) := by
  unfold State.takePowerFall
  split
  · exact enginesRight_settleEngine (enginesRight_completeRampDown hs ‹_›) _
  · exact enginesRight_settleEngine (enginesRight_faultDomain hs x _) _
  · exact enginesRight_settleEngine (enginesRight_faultDomain hs x _) _
  all_goals exact hs

theorem enginesRight_takeEdge (g : Edge) : EnginesRight (s.takeEdge g) := by
  unfold State.takeEdge
  split
  · split
    · exact enginesRight_takeReadyRise hs _
    · exact enginesRight_takeReadyFall hs _
  · split
    · exact enginesRight_of_engines (State.takeWakeRise_engines _) hs
    · exact enginesRight_of_engines (State.takeWakeFall_engines _) hs
  · split
    · exact enginesRight_takePowerRise hs _
    · exact enginesRight_takePowerFall hs _

theorem enginesRight_takeWaiting (g : Edge) : EnginesRight (s.takeWaiting g) :=
  enginesRight_takeEdge (s := s.onPins _) (enginesRight_of_engines (s.onPins_engines _) hs) g

/-- A pin is driven and its edges are taken (R45). -/
theorem enginesRight_edges (g : Edge) (p : Pin) : EnginesRight ((s.drive g).takeEdges p) := by
  have hdrive : EnginesRight (s.drive g) := by
    unfold State.drive
    split
    · exact hs
    · exact enginesRight_of_engines (s.onPins_engines _) hs
  exact State.awake_keeps EnginesRight _ hdrive fun _ =>
    foldl_keeps EnginesRight State.takeWaiting (fun _ k hu => enginesRight_takeWaiting hu k) _ _ hdrive

theorem enginesRight_idle : EnginesRight s.idle := by
  unfold State.idle
  split
  · exact enginesRight_of_engines (s.onPins_engines _) hs
  · refine State.awake_keeps EnginesRight _ hs fun _ => ?_
    split
    · exact enginesRight_takeWaiting hs _
    · exact hs.elapse 1

/-! ### Postings, hand-overs, timers and clears at the engines (chapters 5, 6, 8 and 9) -/

theorem EnginesRight.awake {f : State → State} (h : EnginesRight (f s)) : EnginesRight (s.awake f) :=
  State.awake_keeps EnginesRight f hs fun _ => h

theorem EnginesRight.dropDrPosting (e : Domain) : EnginesRight (s.dropDrPosting e) :=
  enginesRight_of_engines (s.dropDrPosting_engines e) hs

theorem EnginesRight.dropCtPosting (e : Domain) : EnginesRight (s.dropCtPosting e) :=
  enginesRight_of_engines (s.dropCtPosting_engines e) hs

/-- The need of a domain is written, and LINGER left where it has need again (R100, R105). -/
theorem enginesRight_takeNeed (x : SwDom) (b : Bool) :
    EnginesRight (s.onDom x fun r =>
      if b = true ∧ r.state = .linger then { r with need := b, state := .on, lingerCount := none }
      else { r with need := b }) := by
  rw [State.onDom_eq_writeDom]
  split
  · rename_i h
    exact enginesRight_lingerToOn hs ((hs.dom x).on_again h.2) rfl h.2
  · exact enginesRight_writeDom hs (domFits_kept hs.sound (hs.dom x) .rfl) (hs.poweredBy x)

/-- The settings of a domain are written (R113). -/
theorem enginesRight_setDomain (x : SwDom) (ramp off linger : Nat) :
    EnginesRight (s.onDom x fun r => { r with rampTimeout := ramp, offTimeout := off, linger := linger }) := by
  rw [State.onDom_eq_writeDom]
  exact enginesRight_writeDom hs (domFits_kept hs.sound (hs.dom x) .rfl) (hs.poweredBy x)

variable {t : State} {e : Domain} {x : SwDom}

theorem execTargetPostingAtEngine_enginesRight (h : execTargetPostingAtEngine e s = .next t) : EnginesRight t := by
  cases h
  refine hs.awake ?_
  split
  · exact enginesRight_settleEngine (enginesRight_takeTarget (hs.dropDrPosting e) ..) e
  all_goals exact hs

theorem execRestartPosting_enginesRight (h : execRestartPosting e s = .next t) : EnginesRight t := by
  cases h
  refine hs.awake ?_
  split
  · exact enginesRight_settleEngine (enginesRight_takeRestartPosting (hs.dropCtPosting e) ..) e
  all_goals exact hs

theorem execNeedPosting_enginesRight (h : execNeedPosting x s = .next t) : EnginesRight t := by
  cases h
  refine hs.awake ?_
  split
  · exact enginesRight_settleEngine (enginesRight_takeNeed (hs.dropDrPosting x.domain) ..) _
  all_goals exact hs

theorem execSetModuleTimingHandover_enginesRight (h : execSetModuleTimingHandover e s = .next t) : EnginesRight t := by
  cases h
  refine hs.awake ?_
  split
  · exact enginesRight_setTiming (hs.dropCtPosting e) ..
  all_goals exact hs

theorem execSetDomainHandover_enginesRight (h : execSetDomainHandover x s = .next t) : EnginesRight t := by
  cases h
  refine hs.awake ?_
  split
  · exact enginesRight_setDomain (hs.dropCtPosting x.domain) ..
  all_goals exact hs

theorem execSetModuleHandoverEngine_enginesRight (h : execSetModuleHandoverEngine e s = .next t) :
    EnginesRight t := by
  cases h
  refine hs.awake ?_
  split
  · split
    · dsimp only
      refine enginesRight_takeModule ?_ ..
      split
      · exact hs.dropCtPosting _
      · exact (hs.dropCtPosting _).dropCtPosting _
    · exact hs
  all_goals exact hs

theorem execHold_enginesRight (h : execHold e s = .next t) : EnginesRight t := by
  cases h
  refine hs.awake ?_
  split
  · exact hs
  · rename_i u hu
    have hthen : FlightHolds e u (s.elapse (s.timerLeft e)) := (FlightHolds.mk hs hu).elapse _
    split
    · exact enginesRight_settleEngine (enginesRight_finishStep hthen.right hthen.flight) e
    · exact hs

theorem execAckTimeout_enginesRight (h : execAckTimeout e s = .next t) : EnginesRight t := by
  cases h
  refine hs.awake ?_
  split
  · exact hs
  · rename_i u hu
    have hthen : FlightHolds e u (s.elapse (s.timerLeft e)) := (FlightHolds.mk hs hu).elapse _
    obtain ⟨hm, -⟩ := hthen.right.sound.flight (State.inFlight_eq_some.1 hthen.flight)
    split
    · exact enginesRight_settleEngine (enginesRight_faultModule hthen.right hm _) e
    · exact hs

theorem execSupplierFaultNotice_enginesRight (h : execSupplierFaultNotice e s = .next t) : EnginesRight t := by
  cases h
  refine hs.awake ?_
  split
  · refine enginesRight_settleEngine ?_ e
    split
    · exact enginesRight_faultModule (hs.dropDrPosting e) ‹_› _
    · exact hs.dropDrPosting e
  all_goals exact hs

theorem execSupplierClearNotice_enginesRight (h : execSupplierClearNotice e s = .next t) : EnginesRight t := by
  cases h
  refine hs.awake ?_
  split
  · refine enginesRight_settleEngine ?_ e
    split
    · rename_i hclear
      obtain ⟨-, -, hfault, -⟩ := hclear
      exact enginesRight_releaseModule (hs.dropDrPosting e) hfault e
    · exact hs.dropDrPosting e
  all_goals exact hs

theorem execModuleClear_enginesRight (h : execModuleClear e s = .next t) : EnginesRight t := by
  cases h
  refine hs.awake ?_
  split
  · refine enginesRight_settleEngine ?_ e
    split
    · rename_i hclear
      exact enginesRight_releaseModule (hs.dropCtPosting e) hclear.1 e
    · exact hs.dropCtPosting e
  all_goals exact hs

theorem execDomainClear_enginesRight (h : execDomainClear x s = .next t) : EnginesRight t := by
  cases h
  refine hs.awake ?_
  split
  · dsimp only
    split
    · exact enginesRight_settleEngine
        (enginesRight_releaseDomainModules (enginesRight_clearDomain (hs.dropCtPosting x.domain) ‹_›) _) _
    · exact hs.dropCtPosting x.domain
  all_goals exact hs

theorem execRampTimeout_enginesRight (h : execRampTimeout x s = .next t) : EnginesRight t := by
  cases h
  refine hs.awake ?_
  split
  · exact enginesRight_settleEngine (enginesRight_faultDomain (hs.elapse _) x _) _
  · exact hs

theorem execOffTimeout_enginesRight (h : execOffTimeout x s = .next t) : EnginesRight t := by
  cases h
  refine hs.awake ?_
  split
  · exact enginesRight_settleEngine (enginesRight_faultDomain (hs.elapse _) x _) _
  · exact hs

theorem execLingerTick_enginesRight (h : execLingerTick e s = .next t) : EnginesRight t := by
  cases h
  refine hs.awake ?_
  split
  · exact enginesRight_takeEngineTick hs e
  · exact hs

theorem execLingerRunsOut_enginesRight (h : execLingerRunsOut x s = .next t) : EnginesRight t := by
  cases h
  refine hs.awake ?_
  split
  · exact enginesRight_takeEngineTick hs _
  · exact hs

end

/-! ### Every command and every step -/

theorem exec_enginesRight {c : Instr} {s t : State} (hs : EnginesRight s) (h : exec c s = .next t) :
    EnginesRight t := by
  have edge {g : Edge} {p : Pin} (he : exec c s = .next ((s.drive g).takeEdges p)) : EnginesRight t := by
    cases he.symm.trans h
    exact enginesRight_edges hs g p
  have elsewhere (he : t.engines = s.engines) : EnginesRight t := enginesRight_of_engines he hs
  cases hcode : requestCode c with
  | some code =>
    obtain ⟨accepts, body, hb, he⟩ := exec_request_keepsEngines hcode
    cases (he s).symm.trans h
    exact elsewhere (State.serve_engines hb)
  | none =>
    cases c with
    | badCommand => cases h; exact elsewhere (State.serve_engines fun _ _ _ => rfl)
    | deviceResetAsserted => cases h; exact enginesRight_of_engines rfl State.reset_enginesRight
    | deviceResetReleased => cases h; exact elsewhere rfl
    | frameBegin p => exact elsewhere (execFrameBegin_engines h)
    | frameEnd p bits => exact elsewhere (execFrameEnd_engines h)
    | levelNotice e => exact elsewhere (execLevelNotice_engines h)
    | restartStartNotice e => exact elsewhere (execRestartStartNotice_engines h)
    | restartEndNotice e => exact elsewhere (execRestartEndNotice_engines h)
    | faultNoticeAtCt e => exact elsewhere (execFaultNoticeAtCt_engines h)
    | tick => cases h; exact hs.awake hs.endPeriod
    | setTickHandover => exact elsewhere (execSetTickHandover_engines h)
    | leaseCountdown => exact elsewhere (execLeaseCountdown_engines h)
    | lapse sl => exact elsewhere (execLapse_engines h)
    | claimedLevelNotice m => exact elsewhere (execClaimedLevelNotice_engines h)
    | stateNotice e => exact elsewhere (execStateNotice_engines h)
    | faultNoticeAtDr e => exact elsewhere (execFaultNoticeAtDr_engines h)
    | setModuleHandoverDr m => exact elsewhere (execSetModuleHandoverDr_engines h)
    | setModuleHandoverEngine e => exact execSetModuleHandoverEngine_enginesRight hs h
    | setKeepOnHandover x => exact elsewhere (execSetKeepOnHandover_engines h)
    | setModuleTimingHandover e => exact execSetModuleTimingHandover_enginesRight hs h
    | setDomainHandover x => exact execSetDomainHandover_enginesRight hs h
    | mwakeRise m => exact edge rfl
    | mwakeFall m => exact edge rfl
    | idleCountTick => exact elsewhere (execIdleCountTick_engines h)
    | idleCountRunsOut m => exact elsewhere (execIdleCountRunsOut_engines h)
    | targetPostingAtEngine e => exact execTargetPostingAtEngine_enginesRight hs h
    | needPosting x => exact execNeedPosting_enginesRight hs h
    | restartPosting e => exact execRestartPosting_enginesRight hs h
    | takeEntry e => cases h; exact hs.awake (enginesRight_settleEngine hs e)
    | hold e => exact execHold_enginesRight hs h
    | mrdyRise m => exact edge rfl
    | mrdyFall m => exact edge rfl
    | ackTimeout e => exact execAckTimeout_enginesRight hs h
    | supplierFaultNotice e => exact execSupplierFaultNotice_enginesRight hs h
    | supplierClearNotice e => exact execSupplierClearNotice_enginesRight hs h
    | moduleClear e => exact execModuleClear_enginesRight hs h
    | domainClear x => exact execDomainClear_enginesRight hs h
    | dpgRise x => exact edge rfl
    | dpgFall x => exact edge rfl
    | rampTimeout x => exact execRampTimeout_enginesRight hs h
    | offTimeout x => exact execOffTimeout_enginesRight hs h
    | lingerTick e => exact execLingerTick_enginesRight hs h
    | lingerRunsOut x => exact execLingerRunsOut_enginesRight hs h
    | alertPostingReachesPort p j r => exact elsewhere (execAlertPostingReachesPort_engines h)
    | _ => cases hcode

/-- Settles O59: each write of an engine about a module or a domain fits what is in flight beside it, each path fits the
state it is taken from, a domain leaves ON with its modules OFF or in FAULT, and time leaves a transition in flight. -/
theorem everyStepKeepsTheEnginesSafe : Obligations.EveryStepKeepsTheEnginesSafe := by
  unfold Obligations.EveryStepKeepsTheEnginesSafe
  intro s t hs h
  unfold step at h
  cases hp : s.pending with
  | nil =>
    rw [hp] at h
    cases h
    exact enginesRight_idle hs
  | cons c rest =>
    rw [hp] at h
    exact exec_enginesRight (s := { s with pending := rest }) hs h

end Sys2Proof.Machine


namespace Sys2Proof.Machine

/-! ### Paths whose first step waits or completes (R90 to R93) -/

/-- A step other than RESET_RELEASE waits where it does not complete at its begin, on the timer that it loads (R90 to
R92). -/
theorem stepTime_of_waits {ready : Bool} {st : LineStep} (h : completesAtBegin ready st = false) (r : ModRec) :
    r.stepTime st = if st = .hold then some r.resetHold else some r.ackTimeout := by
  cases st with
  | clockOn => rfl
  | clockOff => rfl
  | hold => rfl
  | resetAssert => cases h
  | resetRelease => cases h

/-- A path whose first step waits (R83, R86). -/
theorem EngineWrite.path_waits {ready : Bool} {nx : LineStep} (h : completesAtBegin ready nx = false) (m : Module)
    (t : Target) (restart : Option Port) (rest : List LineStep) (w : EngineWrite) :
    w.path ready m t restart (nx :: rest) =
      (w.begun nx).waiting { module := m, steps := nx :: rest, target := t, restart := restart } := by
  rw [EngineWrite.path, if_neg (by rw [h]; exact Bool.false_ne_true)]

/-- A path whose first step completes at its begin (R93). -/
theorem EngineWrite.path_completes {ready : Bool} {nx : LineStep} (h : completesAtBegin ready nx = true) (m : Module)
    (t : Target) (restart : Option Port) (rest : List LineStep) (w : EngineWrite) :
    w.path ready m t restart (nx :: rest) =
      ((w.begun nx).completed m nx t rest.isEmpty).path ready m t restart rest := by
  rw [EngineWrite.path, if_pos h]

/-- What a write leaves, as the statements of an engine's event say it. -/
theorem State.write_leaves (s : State) (e : Domain) (m : Module) (w : EngineWrite) {f : List CtNotice → List CtNotice}
    {g : List DrNotice → List DrNotice} (hf : ∀ l, l ++ w.ct = f l) (hg : ∀ l, l ++ w.dr = g l) :
    OnlyEngines s (s.write e m w) ∧ (s.write e m w).timebase = s.timebase ∧ SameEngines s (s.write e m w) e m ∧
      (s.write e m w).modAt m = w.mod ∧ (s.write e m w).engines.recs[e] = w.eng ∧
      (s.write e m w).links = { s.links with
        toCt := modifyAt s.links.toCt e f
        toDr := modifyAt s.links.toDr e g
        alerts := s.links.alerts ++ w.alerts } := by
  obtain ⟨honly, htime⟩ := s.write_onlyEngines e m w
  obtain rfl : (· ++ w.ct) = f := funext hf
  obtain rfl : (· ++ w.dr) = g := funext hg
  exact ⟨honly, htime, s.write_sameEngines e m w, s.write_modAt e m w, s.write_recs e m w, s.write_links e m w⟩

/-! ### The edges of MRDY (R90, R94) -/

section
variable {s : State} {e : Domain} {m : Module}

/-- A rise of MRDY completes the CLOCK_ON that waits for it (R90). -/
theorem State.takeReadyRise_completes {t : Transition} (hm : s.faultable e m = true) (ht : s.inFlight e = some t)
    (htm : t.module = m) (hst : t.steps.head? = some .clockOn) :
    s.takeReadyRise m = (s.finishStep e t).settleEngine e := by
  have hof : s.engineOf m = e := State.engineOf_of_faultable hm
  unfold State.takeReadyRise
  simp only [hof, ht, hm, htm, hst, and_self, if_true]

/-- A rise of MRDY on any other module is ignored (R94). -/
theorem State.takeReadyRise_ignored
    (h : s.faultable (s.engineOf m) m = false ∨
      ¬∃ t ∈ s.inFlight (s.engineOf m), t.module = m ∧ t.steps.head? = some .clockOn) : s.takeReadyRise m = s := by
  unfold State.takeReadyRise
  dsimp only
  split
  · rfl
  · rename_i t ht
    refine if_neg fun ⟨hm, hwaits⟩ => ?_
    rcases h with h | h
    · rw [h] at hm; cases hm
    · exact h ⟨t, ht, hwaits⟩

theorem State.stoppingClock_eq_some {t : Transition} :
    s.stoppingClock e m = some t ↔
      s.inFlight e = some t ∧ t.module = m ∧ t.steps.head? = some .clockOff := by
  unfold State.stoppingClock
  rw [Option.bind_eq_some_iff]
  constructor
  · rintro ⟨u, hu, hut⟩
    split at hut
    · cases hut; exact ⟨hu, ‹_›⟩
    · cases hut
  · rintro ⟨ht, hstops⟩
    exact ⟨t, ht, if_pos hstops⟩

/-- A fall of MRDY completes the CLOCK_OFF that waits for it (R90). -/
theorem State.takeReadyFall_completes {t : Transition} (hm : s.faultable e m = true) (ht : s.inFlight e = some t)
    (htm : t.module = m) (hst : t.steps.head? = some .clockOff) :
    s.takeReadyFall m = (s.finishStep e t).settleEngine e := by
  have hof : s.engineOf m = e := State.engineOf_of_faultable hm
  unfold State.takeReadyFall
  simp only [hof, hm, if_true, State.stoppingClock_eq_some.2 ⟨ht, htm, hst⟩]

theorem State.stoppingClock_eq_none
    (h : ¬∃ t ∈ s.inFlight e, t.module = m ∧ t.steps.head? = some .clockOff) : s.stoppingClock e m = none := by
  refine Option.eq_none_iff_forall_ne_some.2 fun t ht => h ?_
  exact ⟨t, State.stoppingClock_eq_some.1 ht⟩

/-- Any other fall of MRDY with the gate open is a loss of ready (R94). -/
theorem State.takeReadyFall_loses (hm : s.faultable e m = true)
    (hst : ¬∃ t ∈ s.inFlight e, t.module = m ∧ t.steps.head? = some .clockOff) (hopen : (s.modAt m).clockOpen = true) :
    s.takeReadyFall m = (s.faultModule e m .readyLost).settleEngine e := by
  have hof : s.engineOf m = e := State.engineOf_of_faultable hm
  unfold State.takeReadyFall
  simp only [hof, hm, if_true, State.stoppingClock_eq_none hst, hopen]

/-- A fall of MRDY with the gate closed, or on a module absent or in FAULT, is ignored (R94). -/
theorem State.takeReadyFall_ignored
    (h : s.faultable (s.engineOf m) m = false ∨
      (¬∃ t ∈ s.inFlight (s.engineOf m), t.module = m ∧ t.steps.head? = some .clockOff) ∧
        (s.modAt m).clockOpen = false) : s.takeReadyFall m = s := by
  unfold State.takeReadyFall
  dsimp only
  split
  · rename_i hm
    obtain ⟨hst, hclosed⟩ := h.resolve_left (by rw [hm]; exact Bool.false_ne_true.symm)
    simp only [State.stoppingClock_eq_none hst, hclosed, Bool.false_eq_true, if_false]
  · rfl

/-- A rise of MRDY with no edge of it waiting is taken with its pin changed (R45, R90). -/
theorem exec_mrdyRise (hr : Running s) (hs : Settled s (.mrdy m)) (hpin : s.pins.mrdy[m] = false) :
    exec (.mrdyRise m) s = .next ((afterInput s (.mrdyRise m)).takeReadyRise m) :=
  congrArg Host.Outcome.next (State.edge_taken (g := { pin := .mrdy m, up := true }) hr hs (by
    rw [show s.pins.level (.mrdy m) = s.pins.mrdy[m] from rfl, hpin]; exact Bool.false_ne_true))

/-- A fall of MRDY with no edge of it waiting is taken with its pin changed (R45, R94). -/
theorem exec_mrdyFall (hr : Running s) (hs : Settled s (.mrdy m)) (hpin : s.pins.mrdy[m] = true) :
    exec (.mrdyFall m) s = .next ((afterInput s (.mrdyFall m)).takeReadyFall m) :=
  congrArg Host.Outcome.next (State.edge_taken (g := { pin := .mrdy m, up := false }) hr hs (by
    rw [show s.pins.level (.mrdy m) = s.pins.mrdy[m] from rfl, hpin]; exact Bool.false_ne_true.symm))

end

/-! ### HOLD and the edges of MRDY complete the step in flight (R90 to R93) -/

theorem exec_hold {s : State} {e : Domain} {tr : Transition} (hr : Running s) (hflight : s.inFlight e = some tr)
    (hst : tr.steps.head? = some .hold) :
    exec (.hold e) s = .next (((s.elapse (s.timerLeft e)).finishStep e tr).settleEngine e) := by
  change Host.Outcome.next (s.awake _) = _
  rw [State.awake_running _ hr]
  simp only [hflight, hst, if_true]

/-- An event that completes a step is taken as the completion of the step, in the state that its input leaves. -/
theorem exec_completesStep {s : State} {i : Instr} {e : Domain} {tr : Transition} {st : LineStep} {rest : List LineStep}
    (h : CompletesStep s i e tr st rest) :
    exec i s = .next (((afterInput s i).finishStep e tr).settleEngine e) := by
  obtain ⟨hr, hflight, hsteps, ⟨rfl, rfl⟩ | ⟨hown, hsettled, ⟨rfl, rfl, hpin⟩ | ⟨rfl, rfl, hpin⟩⟩⟩ := h
  · exact exec_hold hr hflight (by rw [hsteps]; rfl)
  · rw [exec_mrdyRise hr hsettled hpin]
    exact congrArg Host.Outcome.next (State.takeReadyRise_completes hown hflight rfl (by rw [hsteps]; rfl))
  · rw [exec_mrdyFall hr hsettled hpin]
    exact congrArg Host.Outcome.next (State.takeReadyFall_completes hown hflight rfl (by rw [hsteps]; rfl))

/-- The step that completes is HOLD, CLOCK_ON or CLOCK_OFF. -/
theorem not_resetRelease_of_completesStep {s : State} {i : Instr} {e : Domain} {tr : Transition} {st : LineStep}
    {rest : List LineStep} (h : CompletesStep s i e tr st rest) : st ≠ .resetRelease := by
  obtain ⟨-, -, -, ⟨-, rfl⟩ | ⟨-, -, ⟨-, rfl, -⟩ | ⟨-, rfl, -⟩⟩⟩ := h <;> decide

section
variable {st : LineStep} (h : st ≠ .resetRelease) (r : ModRec) (t : Target)
include h

/-- A step before the last clears both flags (R85). -/
theorem ModRec.afterStep_before :
    r.afterStep st t false = { r with state := stateAfter st r.state, armed := false, woken := false } := by
  simp [ModRec.afterStep, h]

/-- The last step sets the flag of its target (R85). -/
theorem ModRec.afterStep_last :
    r.afterStep st t true = { r with
      state := stateAfter st r.state
      armed := decide (t = .pausedArmed ∧ stateAfter st r.state = .paused)
      woken := decide (t = .runningWoken ∧ stateAfter st r.state = .running) } := by
  simp [ModRec.afterStep, h]

end

/-- The completion of the step in flight (R93). -/
theorem State.kept_completed (s : State) (e : Domain) {m : Module} {st : LineStep} {t : Target} {last : Bool}
    {new : ModRec} (h : (s.modAt m).afterStep st t last = new) :
    (s.kept e m).completed m st t last =
      { mod := new
        eng := { s.engines.recs[e] with timer := none }
        ct := levelNoticeFor m (s.modAt m) new
        dr := stateNoticeFor m (s.modAt m) new
        alerts := [] } := by
  rw [← h]
  rfl

/-- An event whose write leaves the engine at work ends with it (R86). -/
theorem exec_waits {s b : State} {i : Instr} {e : Domain} {m : Module} {w : EngineWrite}
    (hx : exec i s = .next ((b.write e m w).settleEngine e)) (hw : w.eng.work ≠ .idle) (ha : w.alerts = []) :
    ∃ t, exec i s = .next t ∧ OnlyEngines b t ∧ t.timebase = b.timebase ∧ SameEngines b t e m ∧
      t.modAt m = w.mod ∧ t.engines.recs[e] = w.eng ∧
      t.links = { b.links with
        toCt := modifyAt b.links.toCt e (· ++ w.ct)
        toDr := modifyAt b.links.toDr e (· ++ w.dr) } := by
  have hstill := State.settleEngine_still (State.engineMove_busy (s := b.write e m w) (e := e)
    (by rw [State.write_recs]; exact hw))
  have hleaves := b.write_leaves e m w (fun _ => rfl) fun _ => rfl
  rw [ha, List.append_nil] at hleaves
  exact ⟨b.write e m w, by rw [hx, hstill], hleaves⟩

/-- An event whose write leaves the engine idle goes on to the engine's queue (R86). -/
theorem exec_ends {s b : State} {i : Instr} {e : Domain} {m : Module} {w : EngineWrite}
    {f : List CtNotice → List CtNotice} {g : List DrNotice → List DrNotice}
    (hx : exec i s = .next ((b.write e m w).settleEngine e)) (hf : ∀ l, l ++ w.ct = f l) (hg : ∀ l, l ++ w.dr = g l) :
    ∃ u, exec i s = .next (u.settleEngine e) ∧ OnlyEngines b u ∧ u.timebase = b.timebase ∧ SameEngines b u e m ∧
      u.modAt m = w.mod ∧ u.engines.recs[e] = w.eng ∧
      u.links = { b.links with
        toCt := modifyAt b.links.toCt e f
        toDr := modifyAt b.links.toDr e g
        alerts := b.links.alerts ++ w.alerts } :=
  ⟨b.write e m w, hx, b.write_leaves e m w hf hg⟩

theorem append_append_two {α : Type} (l a b : List α) : l ++ (a ++ b) = l ++ a ++ b := (List.append_assoc ..).symm

theorem append_append_three {α : Type} (l a b c : List α) : l ++ (a ++ b ++ c) = l ++ a ++ b ++ c := by
  simp only [List.append_assoc]

theorem append_append_four {α : Type} (l a b c d : List α) : l ++ (a ++ b ++ c ++ d) = l ++ a ++ b ++ c ++ d := by
  simp only [List.append_assoc]

/-- Settles O45: the event is the completion of the step, which is one write, and its path is followed to the step that
waits or to its end. -/
theorem stepsCompleteInTheirEvent : Obligations.StepsCompleteInTheirEvent := by
  unfold Obligations.StepsCompleteInTheirEvent
  intro s i e tr st rest h b m old flagged mid
  have hst := not_resetRelease_of_completesStep h
  obtain ⟨-, -, hsteps, -⟩ := id h
  have hx := (exec_completesStep h).trans (congrArg (fun u => Host.Outcome.next (u.settleEngine e))
    (State.finishStep_eq_write b e hsteps))
  have hmid : old.afterStep st tr.target false = mid := ModRec.afterStep_before hst ..
  have hlast : old.afterStep st tr.target true = flagged mid := ModRec.afterStep_last hst ..
  refine ⟨fun nx hnx hwaits => ?_, fun hrest => ?_, fun hrest hready => ?_, fun hrest hready => ?_, fun hrest => ?_⟩
  · obtain ⟨rest, rfl⟩ : ∃ l, rest = nx :: l := by
      cases rest with
      | nil => cases hnx
      | cons a l => cases hnx; exact ⟨l, rfl⟩
    rw [EngineWrite.path_waits hwaits, List.isEmpty_cons, State.kept_completed b e hmid] at hx
    have htime : mid.stepTime nx = if nx = .hold then some old.resetHold else some old.ackTimeout :=
      stepTime_of_waits hwaits mid
    rw [← htime]
    exact exec_waits hx nofun rfl
  · subst hrest
    rw [List.isEmpty_nil, State.kept_completed b e hlast] at hx
    exact exec_ends hx (fun l => append_append_two l _ _) fun _ => rfl
  · subst hrest
    rw [EngineWrite.path_completes (by rw [hready]; rfl), List.isEmpty_cons, State.kept_completed b e hmid] at hx
    exact exec_ends hx (fun l => append_append_three l _ _ _) fun l => append_append_two l _ _
  · subst hrest
    rw [EngineWrite.path_completes (by rw [hready]; rfl), EngineWrite.path_completes (by rfl), List.isEmpty_cons,
      State.kept_completed b e hmid] at hx
    exact exec_ends hx (fun l => append_append_four l _ _ _ _) fun l => append_append_three l _ _ _
  · subst hrest
    rw [EngineWrite.path_completes (by rfl), List.isEmpty_cons, State.kept_completed b e hmid] at hx
    exact exec_ends hx (fun l => append_append_three l _ _ _) fun l => append_append_two l _ _

end Sys2Proof.Machine


namespace Sys2Proof.Machine

/-! ### Fault entry (R94, R95, R136, R138, R139, R141) -/

/-- What a module's entry into FAULT leaves, as the statements say it (R95, R136, R139). -/
theorem faultEntered_faultModule (s : State) (e : Domain) (m : Module) (c : ModCause) :
    FaultEntered s (s.faultModule e m c) e m c := by
  rw [State.faultModule_eq_write]
  obtain ⟨honly, htime, hsame, hmod, hrec, hlinks⟩ :=
    s.write_leaves e m (s.faulting e m c) (fun _ => rfl) fun _ => rfl
  refine ⟨hmod, by rw [hrec]; rfl, by rw [hrec]; rfl, by rw [hrec]; rfl, hsame, honly, htime, ?_⟩
  rw [hlinks, List.append_assoc]
  rfl

section
variable {s : State} {e : Domain} {m : Module}

theorem exec_ackTimeout {tr : Transition} (hr : Running s) (hflight : s.inFlight e = some tr)
    (hst : tr.steps.head? = some .clockOn ∨ tr.steps.head? = some .clockOff) :
    exec (.ackTimeout e) s =
      .next (((s.elapse (s.timerLeft e)).faultModule e tr.module .ackTimeout).settleEngine e) := by
  change Host.Outcome.next (s.awake _) = _
  rw [State.awake_running _ hr]
  simp only [hflight, hst, if_true]

/-- The oldest posting of the demand resolver to an engine, and the stream without it. -/
theorem State.drPosting_of_head {n : DrPosting} {rest : List DrPosting} (h : s.links.drToEngine[e] = n :: rest) :
    s.drPosting e = some n ∧
      s.dropDrPosting e = { s with links := { s.links with drToEngine := s.links.drToEngine.set e rest } } := by
  refine ⟨by rw [State.drPosting, h]; rfl, ?_⟩
  rw [← modifyAt_tail _ _ h]
  rfl

/-- The oldest posting of the claim table to an engine, and the stream without it. -/
theorem State.ctPosting_of_head {n : CtPosting} {rest : List CtPosting} (h : s.links.ctToEngine[e] = n :: rest) :
    s.ctPosting e = some n ∧
      s.dropCtPosting e = { s with links := { s.links with ctToEngine := s.links.ctToEngine.set e rest } } := by
  refine ⟨by rw [State.ctPosting, h]; rfl, ?_⟩
  rw [← modifyAt_tail _ _ h]
  rfl

theorem exec_supplierFaultNotice {rest : List DrPosting} (hr : Running s)
    (h : s.links.drToEngine[e] = .supplierFault m :: rest) :
    exec (.supplierFaultNotice e) s = .next
      ((if (s.dropDrPosting e).faultable e m then (s.dropDrPosting e).faultModule e m .supplier
        else s.dropDrPosting e).settleEngine e) := by
  change Host.Outcome.next (s.awake _) = _
  rw [State.awake_running _ hr]
  simp only [(State.drPosting_of_head h).1]

end

/-- Settles O46: each cause's event makes the module enter FAULT in the state that its input leaves, and every other edge
or notice is ignored. -/
theorem modulesEnterFault : Obligations.ModulesEnterFault := by
  unfold Obligations.ModulesEnterFault
  refine ⟨fun s e tr st rest hr hflight hsteps hst => ?_, fun s m hr hs hpin => ⟨fun hm hstops hopen => ?_, fun h => ?_⟩,
    fun s m hr hs hpin h => ?_, fun s e m rest hr hhead => ?_⟩
  · refine ⟨_, exec_ackTimeout hr hflight ?_, faultEntered_faultModule ..⟩
    rw [hsteps]
    exact hst.imp (congrArg some) (congrArg some)
  · refine ⟨(afterInput s (.mrdyFall m)).faultModule (s.engineOf m) m .readyLost, ?_, faultEntered_faultModule ..⟩
    rw [exec_mrdyFall hr hs hpin]
    exact congrArg Host.Outcome.next (State.takeReadyFall_loses hm hstops hopen)
  · rw [exec_mrdyFall hr hs hpin]
    exact congrArg Host.Outcome.next (State.takeReadyFall_ignored h)
  · rw [exec_mrdyRise hr hs hpin]
    exact congrArg Host.Outcome.next (State.takeReadyRise_ignored h)
  · have hx := exec_supplierFaultNotice hr hhead
    rw [(State.drPosting_of_head hhead).2] at hx
    refine ⟨fun hm => ⟨_, ?_, faultEntered_faultModule ..⟩, fun hm => ?_⟩
    · exact hx.trans (congrArg (fun u => Host.Outcome.next (State.settleEngine u e)) (if_pos hm))
    · exact hx.trans (congrArg (fun u => Host.Outcome.next (State.settleEngine u e)) (if_neg (Bool.eq_false_iff.1 hm)))

end Sys2Proof.Machine


namespace Sys2Proof.Machine

/-! ### Postings at the engines (R74, R79 to R82, R131) -/

/-- The queue after a target posting, as R80 says it. -/
theorem queueTowards_eq (q : List Entry) (m : Module) (r : ModRec) (t : Target) :
    queueTowards q m r t =
      if q.any (fun en => decide (en.module = m)) then
        (q.map fun en => if en.module = m then { en with target := t } else en).filter fun en =>
          decide (en.module ≠ m) || en.restart.isSome || decide (r.view ≠ t.view)
      else if r.view = t.view then q
      else q ++ [{ module := m, target := t, restart := none }] := by
  have hkeeps : (fun en : Entry => !(decide (en.module = m) && en.restart.isNone && r.stands t)) =
      fun en => decide (en.module ≠ m) || en.restart.isSome || decide (r.view ≠ t.view) := funext fun en => by
    rw [Bool.not_and, Bool.not_and, ModRec.stands, decide_not, decide_not, Option.not_isNone]
  rw [queueTowards, hkeeps]
  simp only [ModRec.stands, decide_eq_true_eq]

section
variable {s : State} {e : Domain} {m : Module}

theorem exec_targetPostingAtEngine {t : Target} {rest : List DrPosting} (hr : Running s)
    (h : s.links.drToEngine[e] = .target m t :: rest) :
    exec (.targetPostingAtEngine e) s = .next (((s.dropDrPosting e).takeTarget e m t).settleEngine e) := by
  change Host.Outcome.next (s.awake _) = _
  rw [State.awake_running _ hr]
  simp only [(State.drPosting_of_head h).1]

theorem exec_restartPosting {p : Port} {rest : List CtPosting} (hr : Running s)
    (h : s.links.ctToEngine[e] = .restart m p :: rest) :
    exec (.restartPosting e) s = .next (((s.dropCtPosting e).takeRestartPosting e m p).settleEngine e) := by
  change Host.Outcome.next (s.awake _) = _
  rw [State.awake_running _ hr]
  simp only [(State.ctPosting_of_head h).1]

/-- What a write leaves that changes the module's record and the engine's queue, without notices or alerts. -/
theorem State.queues_of_write {u : State} {w : EngineWrite} {q : List Entry} (hu : u = s.write e m w)
    (heng : w.eng = { s.engines.recs[e] with queue := q }) (hct : w.ct = []) (hdr : w.dr = []) (ha : w.alerts = []) :
    OnlyEngines s u ∧ u.timebase = s.timebase ∧ u.links = s.links ∧ SameEngines s u e m ∧ u.modAt m = w.mod ∧
      u.engines.recs[e] = { s.engines.recs[e] with queue := q } := by
  obtain ⟨honly, htime, hsame, hmod, hrec, -⟩ := s.write_leaves e m w (fun _ => rfl) fun _ => rfl
  rw [hu]
  refine ⟨honly, htime, ?_, hsame, hmod, hrec.trans heng⟩
  rw [State.write_links, hct, hdr, ha, modifyAt_append_nil, modifyAt_append_nil, List.append_nil]

/-- What a target posting leaves of the engines, as R74 and R79 to R81 say it. -/
theorem State.takeTarget_leaves (s : State) (e : Domain) (m : Module) (t : Target) :
    OnlyEngines s (s.takeTarget e m t) ∧ (s.takeTarget e m t).timebase = s.timebase ∧
      (s.takeTarget e m t).links = s.links ∧ SameEngines s (s.takeTarget e m t) e m ∧
      (s.takeTarget e m t).engines.recs[e] =
        { s.engines.recs[e] with queue := (s.takeTarget e m t).engines.recs[e].queue } ∧
      (¬s.faultable e m = true → (s.takeTarget e m t).engines = s.engines) ∧
      (s.faultable e m = true →
        (s.takeTarget e m t).modAt m = { s.modAt m with wanted := t } ∧
        (s.takeTarget e m t).engines.recs[e].queue =
          if (s.modAt m).stepping = true then s.engines.recs[e].queue
          else queueTowards s.engines.recs[e].queue m (s.modAt m) t) := by
  by_cases hm : s.faultable e m = true
  · obtain ⟨honly, htime, hlinks, hsame, hmod, hrec⟩ :=
      State.queues_of_write (s.takeTarget_eq_write e m (t := t) hm) rfl rfl rfl rfl
    exact ⟨honly, htime, hlinks, hsame, by rw [hrec], fun h => absurd hm h, fun _ => ⟨hmod, by rw [hrec]⟩⟩
  · rw [s.takeTarget_discarded e m hm]
    exact ⟨⟨rfl, rfl, rfl, rfl, rfl, rfl, rfl, rfl⟩, rfl, rfl, ⟨rfl, rfl, fun _ _ => rfl, fun _ _ => rfl⟩, rfl,
      fun _ => rfl, fun h => absurd h hm⟩

/-- What a restart posting for a present module of the engine leaves, as R82 and R131 say it. -/
theorem State.takeRestartPosting_leaves {p : Port} (hp : (s.engineDir m).present = true)
    (hd : (s.engineDir m).domain = e) :
    OnlyEngines s (s.takeRestartPosting e m p) ∧ (s.takeRestartPosting e m p).timebase = s.timebase ∧
      SameEngines s (s.takeRestartPosting e m p) e m ∧
      (s.takeRestartPosting e m p).engines.recs[e] =
        { s.engines.recs[e] with queue := (s.takeRestartPosting e m p).engines.recs[e].queue } ∧
      if (s.modAt m).state = .fault then
        (s.takeRestartPosting e m p).engines = s.engines ∧
        (s.takeRestartPosting e m p).links = { s.links with
          toCt := modifyAt s.links.toCt e (· ++ [.restartEnd m])
          alerts := s.links.alerts ++ [{ port := p, subject := .module m, reason := .restartFailed }] }
      else
        (s.takeRestartPosting e m p).links = s.links ∧
        if (s.modAt m).stepping = true then
          (s.takeRestartPosting e m p).modAt m = { s.modAt m with pendingRestart := some p } ∧
            (s.takeRestartPosting e m p).engines.recs[e].queue = s.engines.recs[e].queue
        else
          (s.takeRestartPosting e m p).modAt m = s.modAt m ∧
            (s.takeRestartPosting e m p).engines.recs[e].queue =
              queueRestart s.engines.recs[e].queue m (s.modAt m) p := by
  by_cases hf : (s.modAt m).state = .fault
  · rw [State.takeRestartPosting_fails hp hd hf, if_pos hf]
    exact ⟨⟨rfl, rfl, rfl, rfl, rfl, rfl, rfl, rfl⟩, rfl, ⟨rfl, rfl, fun _ _ => rfl, fun _ _ => rfl⟩, rfl, rfl, rfl⟩
  · have hw := State.takeRestartPosting_eq_write (p := p) hp hd hf
    rw [if_neg hf]
    by_cases hstep : (s.modAt m).stepping = true
    · rw [if_pos hstep] at hw ⊢
      obtain ⟨honly, htime, hlinks, hsame, hmod, hrec⟩ :=
        State.queues_of_write (q := s.engines.recs[e].queue) hw rfl rfl rfl rfl
      exact ⟨honly, htime, hsame, by rw [hrec], hlinks, hmod, by rw [hrec]⟩
    · rw [if_neg hstep] at hw ⊢
      obtain ⟨honly, htime, hlinks, hsame, hmod, hrec⟩ := State.queues_of_write hw rfl rfl rfl rfl
      exact ⟨honly, htime, hsame, by rw [hrec], hlinks, hmod, by rw [hrec]⟩

end

/-- Settles O43: each posting is one write, or none, in the state that it leaves the stream of. -/
theorem postingsAreQueued : Obligations.PostingsAreQueued := by
  unfold Obligations.PostingsAreQueued
  refine ⟨fun s e m t rest hr hhead => ?_, fun s e m p rest hr hhead hp hd => ?_⟩
  · have hx := exec_targetPostingAtEngine hr hhead
    rw [(State.drPosting_of_head hhead).2] at hx
    refine ⟨_, hx, ?_⟩
    obtain ⟨honly, htime, hlinks, hsame, hrec, hother, hown⟩ := State.takeTarget_leaves
      { s with links := { s.links with drToEngine := s.links.drToEngine.set e rest } } e m t
    refine ⟨honly, htime, hlinks, hsame, hrec, fun h => hother (State.faultable_iff.not.2 h), fun h => ?_⟩
    obtain ⟨hmod, hqueue⟩ := hown (State.faultable_iff.2 h)
    rw [queueTowards_eq] at hqueue
    exact ⟨hmod, hqueue⟩
  · have hx := exec_restartPosting hr hhead
    rw [(State.ctPosting_of_head hhead).2] at hx
    exact ⟨_, hx, State.takeRestartPosting_leaves
      (s := { s with links := { s.links with ctToEngine := s.links.ctToEngine.set e rest } }) hp hd⟩

end Sys2Proof.Machine


namespace Sys2Proof.Machine

/-! ### A module that stands quiet moves (R74, R78, R111, R113, R169) -/

/-- No engine has an entry or a transition of module `m`. -/
structure State.Unqueued (s : State) (m : Module) : Prop where
  entry : ∀ d : Domain, ∀ en ∈ s.engines.recs[d].queue, en.module ≠ m
  flight : ∀ (d : Domain) (t : Transition), s.engines.recs[d].work = .transition t → t.module ≠ m

/-- The record of a module that stands OFF, with nothing under way. -/
structure ModRec.Quiet (q : ModRec) : Prop where
  state : q.state = .off
  stepping : q.stepping = false
  lines : q.lines = (false, false)
  cause : q.cause = none
  pending : q.pendingRestart = none

section
variable {s : State} {m : Module} {d : Domain}

theorem EnginesRight.unqueued (hs : EnginesRight s) (hstep : (s.modAt m).stepping = false)
    (hq : s.hasEntry (s.engineOf m) m = false) : s.Unqueued m where
  entry d en hen := by
    by_cases hd : d = s.engineOf m
    · subst hd
      rintro rfl
      rw [State.hasEntry, List.any_eq_false] at hq
      exact hq en hen (decide_eq_true rfl)
    · exact hs.sound.entry_ne rfl hd hen
  flight d _ ht := hs.sound.not_in_flight hstep d ht

theorem EnginesRight.quiet (hs : EnginesRight s) (hoff : (s.modAt m).state = .off)
    (hstep : (s.modAt m).stepping = false) : (s.modAt m).Quiet := by
  obtain ⟨⟨-, -, hcause, -, hrest⟩, -⟩ := hs.sound.modules m
  obtain ⟨⟨-, hlines⟩, hpending⟩ := hrest hstep
  refine ⟨hoff, hstep, by rw [hlines, hoff]; rfl, ?_, hpending⟩
  cases hc : (s.modAt m).cause with
  | none => rfl
  | some c =>
    have hfault := hcause.1 (by rw [hc]; rfl)
    rw [hoff] at hfault
    cases hfault

theorem State.Unqueued.without (h : s.Unqueued m) (d : Domain) : s.engines.recs[d].without m = s.engines.recs[d] := by
  have hwork := workWithout_self (w := s.engines.recs[d].work) (h.flight d)
  rw [EngineRec.without, withoutEntry_of_none (h.entry d), hwork, if_pos rfl]

theorem State.Unqueued.letGo (h : s.Unqueued m) (d : Domain) : s.letGo d m = s := by
  rw [State.letGo_eq, s.onRec_eq_write d m, h.without]
  exact s.write_kept d m

/-- No restart of the module stands (R136). -/
theorem State.Unqueued.restartStanding (h : s.Unqueued m) (hp : (s.modAt m).pendingRestart = none) (d : Domain) :
    s.restartStanding d m = none := by
  have hentry : s.engines.recs[d].queue.find? (·.module = m) = none :=
    List.find?_eq_none.2 fun en hen => by simpa using h.entry d en hen
  have hflight : ((s.inFlight d).bind fun t => if t.module = m then t.restart else none) = none := by
    refine Option.bind_eq_none_iff.2 fun t ht => if_neg (h.flight d t ?_)
    exact State.inFlight_eq_some.1 ht
  rw [State.restartStanding, hentry, hp, hflight]
  rfl

end

/-- What a SET MODULE hand-over makes of a module's record: quieted where it moves or is made absent, with the default
times where it is made present (R74, R78, R169). -/
def ModRec.handedOver (q : ModRec) (quiets makes : Bool) : ModRec :=
  let q := if quiets then q.quieted else q
  if makes then
    { q with
      ackTimeout := Config.defaultAckTimeout, resetHold := Config.defaultResetHold
      idleWindow := Config.defaultIdleWindow }
  else q

section
variable {q : ModRec} (quiets makes : Bool)

theorem ModRec.Quiet.handedOver (h : q.Quiet) : (q.handedOver quiets makes).Quiet := by
  obtain ⟨hstate, hstep, hlines, hcause, hpending⟩ := h
  cases quiets with
  | true => cases makes <;> exact ⟨rfl, rfl, rfl, rfl, rfl⟩
  | false => cases makes <;> exact ⟨hstate, hstep, hlines, hcause, hpending⟩

theorem ModRec.handedOver_gen : (q.handedOver quiets makes).gen = q.gen := by
  cases quiets <;> cases makes <;> rfl

theorem ModRec.handedOver_times :
    ((q.handedOver quiets makes).ackTimeout, (q.handedOver quiets makes).resetHold,
        (q.handedOver quiets makes).idleWindow) =
      if makes = true then (100, 10, 8) else (q.ackTimeout, q.resetHold, q.idleWindow) := by
  cases quiets <;> cases makes <;> rfl

theorem ModRec.handedOver_wanted : (q.handedOver true makes).wanted = .off := by
  cases makes <;> rfl

end

/-- The record is written at the engines, and the module's own record with it (R74, R78, R169). -/
def State.handedOver (s : State) (m : Module) (r : DirRecord) : State :=
  (s.withDir m r).onMod m
    (·.handedOver (!r.present || decide ((s.engineDir m).domain ≠ r.domain)) (r.present && !(s.engineDir m).present))

/-- The engines have taken the hand-over of a quiet module, and not yet considered their queues (R74, R111). -/
def State.tookModule (s : State) (m : Module) (r : DirRecord) : State :=
  if (r.present = true ∧ ((s.engineDir m).present = false ∨ (s.engineDir m).domain ≠ r.domain)) ∧
      s.domState r.domain = .fault then
    (s.handedOver m r).faultModule r.domain m .domain
  else s.handedOver m r

section
variable {s : State} {m : Module} (r : DirRecord)

theorem State.onMod_self (s : State) (m : Module) : s.onMod m id = s := by
  rw [s.onMod_eq_write 0 m]
  exact s.write_kept 0 m

theorem State.onMod_onMod (s : State) (m : Module) (f g : ModRec → ModRec) :
    (s.onMod m f).onMod m g = s.onMod m fun q => g (f q) := by
  rw [s.onMod_eq_write 0 m, s.onMod_eq_write 0 m, State.write_onMod]

theorem State.handedOver_modAt : (s.handedOver m r).modAt m =
    (s.modAt m).handedOver (!r.present || decide ((s.engineDir m).domain ≠ r.domain))
      (r.present && !(s.engineDir m).present) := State.onMod_modAt ..

/-- A SET MODULE hand-over of a quiet module finds nothing for the engines to let go of (R74). -/
theorem State.takeModule_quiet (hu : s.Unqueued m) (hq : (s.modAt m).Quiet) :
    s.takeModule m r = ((s.tookModule m r).settleEngine (s.engineDir m).domain).settleEngine r.domain := by
  have hletGo (d : Domain) : (s.withDir m r).letGo d m = s.withDir m r :=
    State.Unqueued.letGo (s := s.withDir m r) ⟨hu.entry, hu.flight⟩ d
  have hquieted : (if !r.present then (s.withDir m r).onMod m (·.quieted)
      else if (s.engineDir m).domain ≠ r.domain ∧ ((s.withDir m r).modAt m).state ≠ .fault then
        (s.withDir m r).onMod m (·.quieted)
      else s.withDir m r) =
      (s.withDir m r).onMod m fun q =>
        if !r.present || decide ((s.engineDir m).domain ≠ r.domain) then q.quieted else q := by
    have hstate : ((s.withDir m r).modAt m).state ≠ .fault := by
      rw [State.withDir_modAt, hq.state]; decide
    by_cases hp : r.present = true
    · by_cases hd : (s.engineDir m).domain = r.domain
      · simp only [hp, hd, Bool.not_true, ne_eq, not_true_eq_false, decide_false, Bool.or_false, Bool.false_eq_true,
          false_and, if_false]
        exact ((s.withDir m r).onMod_self m).symm
      · simp [hp, hd, hstate]
    · simp [hp]
  have hmade : (if (r.present && !(s.engineDir m).present) = true then
      ((s.withDir m r).onMod m fun q =>
        if !r.present || decide ((s.engineDir m).domain ≠ r.domain) then q.quieted else q).onMod m fun q =>
        { q with
          ackTimeout := Config.defaultAckTimeout, resetHold := Config.defaultResetHold
          idleWindow := Config.defaultIdleWindow }
      else (s.withDir m r).onMod m fun q =>
        if !r.present || decide ((s.engineDir m).domain ≠ r.domain) then q.quieted else q) = s.handedOver m r := by
    unfold State.handedOver ModRec.handedOver
    split
    · rw [State.onMod_onMod]
    · rfl
  have hnofault : ((s.handedOver m r).modAt m).state ≠ .fault := by
    rw [State.handedOver_modAt, (ModRec.Quiet.handedOver _ _ hq).state]; decide
  unfold State.takeModule
  dsimp only
  rw [show (s.onEngines fun g => { g with dir := g.dir.set m r }) = s.withDir m r from rfl, hletGo, hquieted, hmade]
  unfold State.tookModule
  simp only [hnofault, ne_eq, not_false_eq_true, and_true]
  rfl

/-- The fault entry of a quiet module that joins a domain in FAULT is one write (R111, R139). -/
theorem State.faulting_quiet (hu : s.Unqueued m) (hp : (s.modAt m).pendingRestart = none) (d : Domain) (c : ModCause) :
    s.faulting d m c =
      { mod := (s.modAt m).faulted c, eng := s.engines.recs[d], ct := [.fault m c], dr := [.fault m c]
        alerts := faultAlerts s m } := by
  rw [State.faulting, hu.without, hu.restartStanding hp]
  simp only [Option.isSome_none, Bool.false_eq_true, if_false, failureAlerts, List.append_nil]

/-- What a SET MODULE hand-over of a quiet module leaves, as the statement says it (R74, R78, R111, R169). -/
theorem State.tookModule_leaves (hu : s.Unqueued m) (hq : (s.modAt m).Quiet) :
    let u := s.tookModule m r
    let old := s.engineOf m
    let made := r.present = true ∧ (s.engineDir m).present = false
    let joins := r.present = true ∧ ((s.engineDir m).present = false ∨ old ≠ r.domain)
    OnlyEngines s u ∧ u.timebase = s.timebase ∧ u.engines.dir = s.engines.dir.set m r ∧
      u.links = { s.links with toCt := u.links.toCt, toDr := u.links.toDr, alerts := u.links.alerts } ∧
      u.engines.doms = s.engines.doms ∧ u.engines.recs = s.engines.recs ∧
      (∀ k : Module, k ≠ m → u.modAt k = s.modAt k) ∧
      (u.modAt m).gen = (s.modAt m).gen ∧
      ((u.modAt m).ackTimeout, (u.modAt m).resetHold, (u.modAt m).idleWindow) =
        (if made then (100, 10, 8) else ((s.modAt m).ackTimeout, (s.modAt m).resetHold, (s.modAt m).idleWindow)) ∧
      (u.modAt m).lines = (false, false) ∧ (u.modAt m).stepping = false ∧
      (r.present = false ∨ old ≠ r.domain → (u.modAt m).wanted = .off) ∧
      (if joins ∧ s.domState r.domain = .fault then
        (u.modAt m).state = .fault ∧ (u.modAt m).cause = some .domain ∧
          u.links.toCt = modifyAt s.links.toCt r.domain (· ++ [.fault m .domain]) ∧
          u.links.toDr = modifyAt s.links.toDr r.domain (· ++ [.fault m .domain]) ∧
          u.links.alerts = s.links.alerts ++ faultAlerts s m
      else u.links.toCt = s.links.toCt ∧ u.links.toDr = s.links.toDr ∧ u.links.alerts = s.links.alerts ∧
        (u.modAt m).state = .off ∧ (u.modAt m).cause = none) := by
  intro u old made joins
  have hmod := s.handedOver_modAt (m := m) r
  have hquiet := ModRec.Quiet.handedOver (!r.present || decide ((s.engineDir m).domain ≠ r.domain))
    (r.present && !(s.engineDir m).present) hq
  rw [← hmod] at hquiet
  have hgen : ((s.handedOver m r).modAt m).gen = (s.modAt m).gen := by rw [hmod, ModRec.handedOver_gen]
  have htimes : (((s.handedOver m r).modAt m).ackTimeout, ((s.handedOver m r).modAt m).resetHold,
      ((s.handedOver m r).modAt m).idleWindow) =
      if made then (100, 10, 8) else ((s.modAt m).ackTimeout, (s.modAt m).resetHold, (s.modAt m).idleWindow) := by
    rw [hmod, ModRec.handedOver_times]
    exact if_congr (by simp [made]) rfl rfl
  have hothers (k : Module) (hk : k ≠ m) : (s.handedOver m r).modAt k = s.modAt k := by
    rw [State.handedOver, State.onMod_eq_write _ 0 m, State.write_modAt_ne _ _ _ _ hk]
    rfl
  by_cases hj : joins ∧ s.domState r.domain = .fault
  · have hu' : u = (s.handedOver m r).write r.domain m ((s.handedOver m r).faulting r.domain m .domain) :=
      (if_pos hj).trans (State.faultModule_eq_write ..)
    rw [State.faulting_quiet (s := s.handedOver m r) ⟨hu.entry, hu.flight⟩ hquiet.pending] at hu'
    rw [hu', if_pos hj, State.write_modAt]
    refine ⟨⟨rfl, rfl, rfl, rfl, rfl, rfl, rfl, rfl⟩, rfl, rfl, rfl, rfl, vector_set_self .., fun k hk => ?_, hgen, htimes,
      rfl, rfl, fun _ => rfl, rfl, rfl, rfl, rfl, rfl⟩
    rw [State.write_modAt_ne _ _ _ _ hk]
    exact hothers k hk
  · have hu' : u = s.handedOver m r := if_neg hj
    rw [hu', if_neg hj]
    refine ⟨⟨rfl, rfl, rfl, rfl, rfl, rfl, rfl, rfl⟩, rfl, rfl, rfl, rfl, rfl, hothers, hgen, htimes, hquiet.lines,
      hquiet.stepping, fun h => ?_, rfl, rfl, rfl, hquiet.state, hquiet.cause⟩
    have hquiets : (!r.present || decide ((s.engineDir m).domain ≠ r.domain)) = true := by
      rw [Bool.or_eq_true, Bool.not_eq_true', decide_eq_true_eq]
      exact h
    rw [hmod, hquiets, ModRec.handedOver_wanted]

end

/-! ### The hand-overs of settings (R74, R78, R113) -/

section
variable {s : State} {e : Domain} {m : Module}

/-- SET MODULE TIMING's hand-over writes the three times (R78). -/
theorem exec_setModuleTimingHandover {ack hold idle : Nat} {rest : List CtPosting} (hr : Running s)
    (h : s.links.ctToEngine[e] = .setTiming m ack hold idle :: rest) :
    exec (.setModuleTimingHandover e) s = .next ((s.dropCtPosting e).onMod m fun r =>
      { r with ackTimeout := ack, resetHold := hold, idleWindow := idle }) := by
  change Host.Outcome.next (s.awake _) = _
  rw [State.awake_running _ hr]
  simp only [(State.ctPosting_of_head h).1]

/-- SET DOMAIN's hand-over writes the domain's settings (R113). -/
theorem exec_setDomainHandover {x y : SwDom} {ramp off linger : Nat} {rest : List CtPosting} (hr : Running s)
    (h : s.links.ctToEngine[x.domain] = .setDomain y ramp off linger :: rest) :
    exec (.setDomainHandover x) s = .next ((s.dropCtPosting x.domain).onDom y fun r =>
      { r with rampTimeout := ramp, offTimeout := off, linger := linger }) := by
  change Host.Outcome.next (s.awake _) = _
  rw [State.awake_running _ hr]
  simp only [(State.ctPosting_of_head h).1]

/-- A SET MODULE hand-over at the head of both streams leaves both in one event (R74). -/
theorem exec_setModuleHandoverEngine {r : DirRecord} {old : Domain} {restOld restNew : List CtPosting} (hr : Running s)
    (he : e = old ∨ e = r.domain) (hold : s.links.ctToEngine[old] = .setModule m r old :: restOld)
    (hnew : s.links.ctToEngine[r.domain] = .setModule m r old :: restNew) :
    exec (.setModuleHandoverEngine e) s = .next (State.takeModule
      { s with links := { s.links with
        ctToEngine := (s.links.ctToEngine.set old restOld).set r.domain restNew } } m r) := by
  obtain ⟨hheadOld, hdropOld⟩ := State.ctPosting_of_head hold
  obtain ⟨hheadNew, -⟩ := State.ctPosting_of_head hnew
  have hhead : s.ctPosting e = some (.setModule m r old) := by
    rcases he with rfl | rfl
    · exact hheadOld
    · exact hheadNew
  have hdrop : (if r.domain = old then s.dropCtPosting old else (s.dropCtPosting old).dropCtPosting r.domain) =
      { s with links := { s.links with ctToEngine := (s.links.ctToEngine.set old restOld).set r.domain restNew } } := by
    split
    · rename_i hsame
      subst hsame
      cases hold.symm.trans hnew
      rw [hdropOld, Vector.set_set]
    · rename_i hother
      rw [hdropOld]
      refine (State.ctPosting_of_head (rest := restNew) (n := .setModule m r old) ?_).2
      exact (set_get_ne _ _ hother).trans hnew
  change Host.Outcome.next (s.awake _) = _
  rw [State.awake_running _ hr]
  simp only [hhead, hheadOld, hheadNew, and_self, if_true, hdrop]

end

/-- Settles O48: a hand-over of settings is one write, and a quiet module finds nothing for the engines to let go of. -/
theorem settingsReachTheEngines : Obligations.SettingsReachTheEngines := by
  unfold Obligations.SettingsReachTheEngines
  refine ⟨fun s e m ack hold idle rest hr h => ?_, fun s x ramp off linger rest hr h => ?_,
    ?_⟩
  · rw [exec_setModuleTimingHandover hr h, (State.ctPosting_of_head h).2]
    rfl
  · rw [exec_setDomainHandover hr h, (State.ctPosting_of_head h).2]
    rfl
  · intro s e m r restOld restNew old hr he hold hnew hs hoff hstep hq made joins
    let b : State := { s with links := { s.links with
      ctToEngine := (s.links.ctToEngine.set old restOld).set r.domain restNew } }
    have hb : EnginesRight b := enginesRight_of_engines rfl hs
    have hunqueued := hb.unqueued hstep hq
    have hquiet := hb.quiet hoff hstep
    have hx := (exec_setModuleHandoverEngine hr he hold hnew).trans
      (congrArg Host.Outcome.next (State.takeModule_quiet r hunqueued hquiet))
    exact ⟨_, hx, State.tookModule_leaves r hunqueued hquiet⟩

end Sys2Proof.Machine


namespace Sys2Proof.Machine

/-! ### Eligibility, as R87 says it -/

section
variable {r : ModRec} {t : Target}

theorem Target.state_eq_paused : t.state = .paused ↔ t = .paused ∨ t = .pausedArmed := by cases t <;> decide

theorem Target.state_eq_running : t.state = .running ↔ t = .runningWoken ∨ t = .running := by cases t <;> decide

theorem Target.state_eq_off : t.state = .off ↔ t = .off := by cases t <;> decide

/-- A target is off, or one of the two that are paused, or one of the two that run (Table 4-3). -/
theorem Target.state_cases (t : Target) : t.state = .off ∨ t.state = .paused ∨ t.state = .running := by
  cases t <;> decide

/-- Table 5-4, kind up. -/
theorem planOf_up_iff : (∃ steps, planOf r t = .up steps) ↔ GoesUp r t := by
  unfold GoesUp planOf
  rw [← Target.state_eq_running, Ne, ← Target.state_eq_off]
  rcases t.state_cases with ht | ht | ht <;> cases r.state <;> simp [ht]
  all_goals split <;> simp

/-- Table 5-4, kind down. -/
theorem planOf_down_iff : (∃ steps, planOf r t = .down steps) ↔ GoesDown r t := by
  unfold GoesDown planOf
  rw [← Target.state_eq_paused, ← Target.state_eq_off]
  rcases t.state_cases with ht | ht | ht <;> cases r.state <;> simp [ht]
  all_goals split <;> simp

/-- Table 5-4, kind flag-only. -/
theorem planOf_flagOnly_iff : planOf r t = .flagOnly ↔ ChangesFlags r t := by
  unfold ChangesFlags planOf ModRec.stands
  rw [← Target.state_eq_paused, ← Target.state_eq_running]
  rcases t.state_cases with ht | ht | ht <;> cases r.state <;> simp [ht]

end

section
variable {s : State} {e : Domain} {m : Module} {t : Target}

theorem State.domState_powered :
    s.domState e = .on ∨ s.domState e = .linger ↔
      e = 0 ∨ ∃ x : SwDom, x.domain = e ∧ (s.engines.doms[x].state = .on ∨ s.engines.doms[x].state = .linger) := by
  unfold State.domState
  cases hx : switchedOf e with
  | none =>
    have he : e = 0 := by
      unfold switchedOf at hx
      split at hx
      · cases hx
      · exact Fin.ext (by omega)
    exact iff_of_true (.inl rfl) (.inl he)
  | some x =>
    obtain rfl := switchedOf_eq_some.1 hx
    constructor
    · exact fun h => .inr ⟨x, rfl, h⟩
    · rintro (h | ⟨y, hy, h⟩)
      · exact absurd h (SwDom.domain_ne_zero x)
      · rw [← SwDom.domain_inj.1 hy]
        exact h

/-- An entry of kind up is eligible by its domain and its supplier (R87). -/
theorem State.upEligible_iff (ht : t ≠ .off) : s.upEligible e m t = true ↔ MayGoUp s e m t := by
  unfold State.upEligible MayGoUp
  rw [Bool.and_eq_true, decide_eq_true_eq, State.domState_powered]
  refine and_congr_right fun _ => ?_
  cases (s.engineDir m).supplier with
  | none => simp
  | some u =>
    rw [← Target.state_eq_paused, ← Target.state_eq_running]
    rcases t.state_cases with h | h | h
    · exact absurd (Target.state_eq_off.1 h) ht
    · simp [h, and_comm]
    · simp [h, and_comm]

/-- An entry of kind down is eligible by its present dependents (R87). -/
theorem State.downEligible_iff : s.downEligible m t = true ↔ MayGoDown s m t := by
  unfold State.downEligible MayGoDown
  rw [List.all_eq_true]
  refine forall_congr' fun k => ?_
  rw [mem_dependentsIn, and_imp, ← Target.state_eq_paused]
  refine imp_congr_right fun _ => imp_congr_right fun _ => ?_
  simp [and_assoc, imp_iff_not_or]

/-- Which entries are eligible (R87). -/
theorem State.eligible_iff (en : Entry) :
    s.eligible e en = true ↔
      en.restart ≠ none ∨ GoesUp (s.modAt en.module) en.target ∧ MayGoUp s e en.module en.target ∨
        GoesDown (s.modAt en.module) en.target ∧ MayGoDown s en.module en.target ∨
          ChangesFlags (s.modAt en.module) en.target := by
  rw [← planOf_up_iff, ← planOf_down_iff, ← planOf_flagOnly_iff]
  unfold State.eligible
  cases hr : en.restart with
  | some p => simp
  | none =>
    cases hp : planOf (s.modAt en.module) en.target with
    | up steps =>
      have ht : en.target ≠ .off := fun ht => by
        rw [ht] at hp
        obtain ⟨-, h⟩ | ⟨-, h⟩ := planOf_up_iff.1 ⟨_, hp⟩
        · exact h rfl
        · rcases h with h | h <;> cases h
      simp [State.upEligible_iff ht]
    | down steps => simp [State.downEligible_iff]
    | flagOnly => simp
    | nothing => simp

end

/-! ### The moves of TAKE_ENTRY (R86, R89, R101) -/

section
variable {s : State} {e : Domain}

/-- With no domain OFF at the engine, no ramp is due (R101). -/
theorem State.no_rampUpDue (h : ∀ x : SwDom, x.domain = e → s.engines.doms[x].state ≠ .off) :
    (switchedOf e).any s.rampUpDue = false := by
  rw [Option.any_eq_false]
  intro x hx
  have hoff := h x (switchedOf_eq_some.1 hx)
  simp only [State.rampUpDue, hoff, decide_false, Bool.false_and]

/-- An idle engine with no ramp due takes its oldest eligible entry (R86). -/
theorem State.engineMove_oldest {en : Entry} {before rest : List Entry} (hidle : s.engines.recs[e].work = .idle)
    (hoff : ∀ x : SwDom, x.domain = e → s.engines.doms[x].state ≠ .off)
    (hq : s.engines.recs[e].queue = before ++ en :: rest) (hbefore : ∀ b ∈ before, s.eligible e b = false)
    (hen : s.eligible e en = true) : s.engineMove e = some (s.takeEntry e en) := by
  have hfind : s.engines.recs[e].queue.find? (s.eligible e) = some en := by
    rw [hq, List.find?_append, List.find?_eq_none.2 fun b hb => Bool.eq_false_iff.1 (hbefore b hb), List.find?_cons, hen]
    rfl
  rw [State.engineMove, if_neg (not_not.2 hidle), State.no_rampUpDue hoff, if_neg Bool.false_ne_true, hfind]

theorem State.engineMoves_still {n : Nat} (h : s.engineMove e = none) : State.engineMoves e n s = s := by
  cases n with
  | zero => rfl
  | succ n => rw [State.engineMoves, h]

/-- TAKE_ENTRY goes on from the engine's first move (log 9). -/
theorem State.settleEngine_some {u : State} (h : s.engineMove e = some u) :
    s.settleEngine e = State.engineMoves e (4 * s.engines.recs[e].queue.length + 7) u := by
  rw [State.settleEngine, State.engineMoves, h]

theorem exec_takeEntry (hr : Running s) : exec (.takeEntry e) s = .next (s.settleEngine e) :=
  congrArg Host.Outcome.next (State.awake_running _ hr)

/-- A first move that leaves the engine at work is all that TAKE_ENTRY does (R86, R89). -/
theorem exec_takeEntry_begins {u : State} (hr : Running s) (h : s.engineMove e = some u)
    (hw : u.engines.recs[e].work ≠ .idle) : exec (.takeEntry e) s = .next u := by
  rw [exec_takeEntry hr, State.settleEngine_some h, State.engineMoves_still (State.engineMove_busy hw)]

theorem State.not_off_of_powered {s : State} {e : Domain} (h : s.domState e = .on ∨ s.domState e = .linger)
    (x : SwDom) (hx : x.domain = e) : s.engines.doms[x].state ≠ .off := by
  subst hx
  rw [State.domState_switched] at h
  rcases h with h | h <;> rw [h] <;> decide

end

end Sys2Proof.Machine


namespace Sys2Proof.Machine

/-! ### What the first move writes (R84 to R86, R90 to R93, R105, R132 to R134) -/

/-- The state with other records of its domains. -/
def State.withDoms (s : State) (v : Vector DomRec 3) : State := { s with engines := { s.engines with doms := v } }

theorem State.leaveLinger_eq_withDoms (s : State) (e : Domain) :
    s.leaveLinger e = s.withDoms (s.leaveLinger e).engines.doms := s.leaveLinger_eq e

section
variable {s u : State} {e : Domain} {m : Module} {w : EngineWrite}

/-- What a write leaves, as the statements of a first move say it. -/
theorem State.all_of_write (hu : u = s.write e m w) :
    OnlyEngines s u ∧ u.timebase = s.timebase ∧ SameEngines s u e m ∧ u.engines.recs[e] = w.eng ∧ u.modAt m = w.mod ∧
      u.links = { s.links with
        toCt := modifyAt s.links.toCt e (· ++ w.ct)
        toDr := modifyAt s.links.toDr e (· ++ w.dr)
        alerts := s.links.alerts ++ w.alerts } := by
  subst hu
  obtain ⟨honly, htime⟩ := s.write_onlyEngines e m w
  exact ⟨honly, htime, s.write_sameEngines e m w, s.write_recs e m w, s.write_modAt e m w, s.write_links e m w⟩

/-- What a write without alerts leaves. -/
theorem State.leaves_of_write (hu : u = s.write e m w) (ha : w.alerts = []) :
    OnlyEngines s u ∧ u.timebase = s.timebase ∧ SameEngines s u e m ∧ u.engines.recs[e] = w.eng ∧ u.modAt m = w.mod ∧
      u.links = { s.links with
        toCt := modifyAt s.links.toCt e (· ++ w.ct)
        toDr := modifyAt s.links.toDr e (· ++ w.dr) } := by
  have hall := State.all_of_write hu
  rw [ha, List.append_nil] at hall
  exact hall

/-- What a write without alerts leaves that an engine makes with other records of its domains. -/
theorem State.leaves_of_withDoms {v : Vector DomRec 3} (hu : u = (s.withDoms v).write e m w) (ha : w.alerts = []) :
    OnlyEngines s u ∧ u.timebase = s.timebase ∧ u.engines.dir = s.engines.dir ∧
      (∀ k : Module, k ≠ m → u.modAt k = s.modAt k) ∧
      (∀ d : Domain, d ≠ e → u.engines.recs[d] = s.engines.recs[d]) ∧ u.engines.doms = v ∧
      u.engines.recs[e] = w.eng ∧ u.modAt m = w.mod ∧
      u.links = { s.links with
        toCt := modifyAt s.links.toCt e (· ++ w.ct)
        toDr := modifyAt s.links.toDr e (· ++ w.dr) } := by
  obtain ⟨honly, htime, ⟨hdir, hdoms, hothers, hrecs⟩, hrec, hmod, hlinks⟩ := State.leaves_of_write hu ha
  exact ⟨honly, htime, hdir, hothers, hrecs, hdoms, hrec, hmod, hlinks⟩

end

/-- Notices that set out only where a condition holds. -/
theorem modifyAt_append_if {α : Type} {n : Nat} (v : Vector (List α) n) (i : Fin n) (l : List α) (c : Prop)
    [Decidable c] : modifyAt v i (· ++ if c then l else []) = if c then modifyAt v i (· ++ l) else v := by
  split
  · rfl
  · exact modifyAt_append_nil v i

section
variable {w : EngineWrite} {m : Module} {t : Target} {restart : Option Port} {ready : Bool}

/-- A path that begins with a reset and holds it waits for the hold (R91, R92). -/
theorem EngineWrite.path_resetHold (rest : List LineStep) :
    w.path ready m t restart (.resetAssert :: .hold :: rest) =
      (((w.begun .resetAssert).completed m .resetAssert t false).begun .hold).waiting
        { module := m, steps := .hold :: rest, target := t, restart := restart } := by
  rw [EngineWrite.path_completes rfl, EngineWrite.path_waits rfl]
  rfl

/-- A path that begins with the clock waits for MRDY, or where it is high already for the hold (R90, R92). -/
theorem EngineWrite.path_clockHold (rest : List LineStep) :
    w.path ready m t restart (.clockOn :: .hold :: rest) =
      if ready then
        (((w.begun .clockOn).completed m .clockOn t false).begun .hold).waiting
          { module := m, steps := .hold :: rest, target := t, restart := restart }
      else (w.begun .clockOn).waiting
        { module := m, steps := .clockOn :: .hold :: rest, target := t, restart := restart } := by
  cases ready with
  | true => rw [if_pos rfl, EngineWrite.path_completes rfl, EngineWrite.path_waits rfl]; rfl
  | false => rw [if_neg Bool.false_ne_true, EngineWrite.path_waits rfl]

end

/-- A module that is OFF or in FAULT, with nothing in flight, is not up (R128, R132). -/
theorem ModRec.not_up {r : ModRec} (hstep : r.stepping = false) (h : r.state = .off ∨ r.state = .fault) :
    r.up = false := by
  rcases h with h | h <;> simp [ModRec.up, h, hstep]

section
variable {s : State} {e : Domain} {m : Module} {tg : Target}

/-- A bring-up from OFF (Table 5-4). -/
theorem planOf_bringUp {r : ModRec} (hoff : r.state = .off) (htg : tg.state = .paused ∨ tg.state = .running) :
    planOf r tg = .up (.clockOn ::
      (if tg.state = .paused then [.hold, .clockOff, .resetRelease] else [.hold, .resetRelease])) := by
  unfold planOf
  rcases htg with h | h <;> simp [hoff, h]

/-- A bring-up is eligible in a powered domain with its supplier high enough and not stepping (R87). -/
theorem State.eligible_bringUp (hd : s.domState e = .on ∨ s.domState e = .linger) (hoff : (s.modAt m).state = .off)
    (htg : tg.state = .paused ∨ tg.state = .running)
    (hsup : ∀ u ∈ (s.engineDir m).supplier, (s.modAt u).stepping = false ∧
      ((s.modAt u).state = .running ∨ (tg.state = .paused ∧ (s.modAt u).state = .paused))) :
    s.eligible e { module := m, target := tg, restart := none } = true := by
  refine (State.eligible_iff _).2 (.inr (.inl ⟨.inl ⟨hoff, ?_⟩, State.domState_powered.1 hd, fun _ u hu => ?_,
    fun hrun u hu => ?_, fun u hu => (hsup u hu).1⟩))
  · rintro rfl
    rcases htg with h | h <;> cases h
  · exact (hsup u hu).2.symm.imp_left And.right
  · refine (hsup u hu).2.resolve_right fun h => ?_
    rw [Target.state_eq_running.2 hrun] at h
    cases h.1

/-- What a bring-up from OFF writes first: MCLKEN high, and with MRDY high already HELD and the hold (R90, R92). -/
theorem State.takeEntry_bringUp (hoff : (s.modAt m).state = .off) (htg : tg.state = .paused ∨ tg.state = .running) :
    let path : List LineStep := if tg.state = .paused then [.hold, .clockOff, .resetRelease] else [.hold, .resetRelease]
    let old := s.modAt m
    let up : ModRec := { old with stepping := true, clockOpen := true }
    let held : ModRec := { up with state := .held, armed := false, woken := false }
    s.takeEntry e { module := m, target := tg, restart := none } =
      (s.withDoms (s.leaveLinger e).engines.doms).write e m
      { mod := if s.pins.mrdy[m] then held else up
        eng :=
          { queue := withoutEntry m s.engines.recs[e].queue
            work := .transition { module := m, target := tg, restart := none,
                                  steps := if s.pins.mrdy[m] then path else .clockOn :: path }
            timer := some (if s.pins.mrdy[m] then old.resetHold else old.ackTimeout) }
        ct := if s.pins.mrdy[m] then levelNoticeFor m old held else []
        dr := if s.pins.mrdy[m] then stateNoticeFor m old held else []
        alerts := [] } := by
  intro path old up held
  obtain ⟨rest, hpath⟩ : ∃ rest, path = .hold :: rest := by
    unfold path
    split <;> exact ⟨_, rfl⟩
  have hheld : up.afterStep .clockOn tg false = held := by
    rw [ModRec.afterStep_before (by decide), show up.state = .off from hoff]
    rfl
  rw [State.takeEntry_up rfl (planOf_bringUp hoff htg), show (if tg.state = .paused then _ else _) = path from rfl,
    hpath, EngineWrite.path_clockHold, ← s.leaveLinger_eq_withDoms e]
  congr 1
  cases s.pins.mrdy[m] with
  | true =>
    rw [← hheld]
    rfl
  | false => rfl

end

end Sys2Proof.Machine


namespace Sys2Proof.Machine

/-! ### The first moves that assert reset (R87, R91, R92, R132 to R134) -/

section
variable {s : State} {e : Domain} {m : Module} {tg : Target}

/-- A RUNNING module stands above level 0 (Table 5-3). -/
theorem ModRec.level_running {r : ModRec} (h : r.state = .running) : r.level ≠ 0 := by
  unfold ModRec.level
  rw [h, physLevel]
  split <;> decide

theorem levelNoticeFor_falls {old new : ModRec} (ho : old.level ≠ 0) (hn : new.level = 0) :
    levelNoticeFor m old new = [.level m 0 new.gen] := by
  rw [levelNoticeFor, hn, if_neg ho]

theorem stateNoticeFor_changes {old new : ModRec} (h : old.state ≠ new.state) :
    stateNoticeFor m old new = [.state m new.view] :=
  if_neg fun hv => h (congrArg DrView.state hv)

/-- From RUNNING a path asserts reset, reports level 0 and HELD, and holds (R91, R92). -/
theorem State.started_resetHold (hrun : (s.modAt m).state = .running) (ct : List CtNotice) (ready : Bool)
    (restart : Option Port) (rest : List LineStep) :
    EngineWrite.path ready m tg restart (.resetAssert :: .hold :: rest) { s.started e m with ct := ct } =
      { mod := { s.modAt m with
          state := .held, armed := false, woken := false, stepping := true, resetReleased := false }
        eng :=
          { queue := withoutEntry m s.engines.recs[e].queue
            work := .transition { module := m, target := tg, restart := restart, steps := .hold :: rest }
            timer := some (s.modAt m).resetHold }
        ct := ct ++ [.level m 0 (s.modAt m).gen]
        dr := [.state m { state := .held, armed := false, woken := false }]
        alerts := [] } := by
  let begun : ModRec := { s.modAt m with stepping := true, resetReleased := false }
  let held : ModRec := { begun with state := .held, armed := false, woken := false }
  have hheld : begun.afterStep .resetAssert tg false = held := by
    rw [ModRec.afterStep_before (by decide), show begun.state = .running from hrun]
    rfl
  have hlevel : levelNoticeFor m begun held = [.level m 0 (s.modAt m).gen] :=
    levelNoticeFor_falls (ModRec.level_running (r := begun) hrun) rfl
  have hstate : stateNoticeFor m begun held = [.state m held.view] :=
    stateNoticeFor_changes (by rw [show begun.state = .running from hrun]; exact nofun)
  change _ = ({ mod := held, eng := _, ct := ct ++ [.level m 0 (s.modAt m).gen], dr := [.state m held.view]
                alerts := [] } : EngineWrite)
  rw [EngineWrite.path_resetHold, ← hlevel, ← hstate, ← hheld]
  rfl

/-- A restart of a PAUSED module asserts reset, reports level 0 and OFF, and drives MCLKEN high; with MRDY high already
it goes on to HELD and the hold (R90 to R92, R134). -/
theorem State.started_restartPaused (hpaused : (s.modAt m).state = .paused) (ct : List CtNotice) (restart : Option Port) :
    let old := s.modAt m
    let asserted : ModRec :=
      { old with state := .off, armed := false, woken := false, stepping := true, resetReleased := false }
    let driven : ModRec := { asserted with clockOpen := true }
    let held : ModRec := { driven with state := .held }
    let path : List LineStep := [.hold, .clockOff, .resetRelease]
    EngineWrite.path s.pins.mrdy[m] m tg restart (.resetAssert :: .clockOn :: path) { s.started e m with ct := ct } =
      { mod := if s.pins.mrdy[m] then held else driven
        eng :=
          { queue := withoutEntry m s.engines.recs[e].queue
            work := .transition { module := m, target := tg, restart := restart,
                                  steps := if s.pins.mrdy[m] then path else .clockOn :: path }
            timer := some (if s.pins.mrdy[m] then old.resetHold else old.ackTimeout) }
        ct := ct ++ levelNoticeFor m old asserted
        dr := .state m asserted.view :: (if s.pins.mrdy[m] then [.state m held.view] else [])
        alerts := [] } := by
  intro old asserted driven held path
  let begun : ModRec := { old with stepping := true, resetReleased := false }
  have hasserted : begun.afterStep .resetAssert tg false = asserted := by
    rw [ModRec.afterStep_before (by decide), show begun.state = .paused from hpaused]
    rfl
  have hheld : driven.afterStep .clockOn tg false = held := ModRec.afterStep_before (by decide) ..
  have hstate : stateNoticeFor m begun asserted = [.state m asserted.view] :=
    stateNoticeFor_changes (by rw [show begun.state = .paused from hpaused]; exact nofun)
  have hcompleted : ({ s.started e m with ct := ct }.begun .resetAssert).completed m .resetAssert tg false =
      { mod := asserted, eng := { s.engines.recs[e] with queue := withoutEntry m s.engines.recs[e].queue, timer := none }
        ct := ct ++ levelNoticeFor m old asserted, dr := [.state m asserted.view], alerts := [] } := by
    rw [← hstate, ← hasserted]
    rfl
  rw [EngineWrite.path_completes rfl, List.isEmpty_cons, hcompleted, EngineWrite.path_clockHold]
  cases s.pins.mrdy[m] with
  | true =>
    have hlevel : levelNoticeFor m driven held = [] := if_pos rfl
    have hnotice : stateNoticeFor m driven held = [.state m held.view] := stateNoticeFor_changes nofun
    have hct : ct ++ levelNoticeFor m old asserted ++ levelNoticeFor m driven held =
        ct ++ levelNoticeFor m old asserted := by rw [hlevel, List.append_nil]
    simp only [if_true]
    conv_rhs => rw [← hct, ← hnotice, ← hheld]
    rfl
  | false => rfl

/-- A take-down from RUNNING is eligible once every present dependent is OFF, HELD or in FAULT, and not stepping (R87). -/
theorem State.eligible_takeDown (hrun : (s.modAt m).state = .running)
    (hdep : ∀ k : Module, (s.engineDir k).present = true → (s.engineDir k).supplier = some m →
      (s.modAt k).stepping = false ∧
        ((s.modAt k).state = .off ∨ (s.modAt k).state = .fault ∨ (s.modAt k).state = .held)) :
    s.eligible e { module := m, target := .off, restart := none } = true := by
  refine (State.eligible_iff _).2 (.inr (.inr (.inl ⟨.inr ⟨hrun, .inl rfl⟩, fun k hp hk => ?_⟩)))
  obtain ⟨hstep, hstate⟩ := hdep k hp hk
  refine ⟨?_, hstep, fun h => by rcases h with h | h <;> cases h⟩
  have hlevel : (s.modAt k).level = 0 := by
    unfold ModRec.level
    rcases hstate with h | h | h <;> rw [h] <;> rfl
  rw [hlevel]
  exact Fin.zero_le _

end

end Sys2Proof.Machine


namespace Sys2Proof.Machine

/-! ### Rows of one step, flag-only changes, and restarts that fail (R84, R90, R91, R105, R132) -/

/-- A row of Table 5-4 with the one step `st`. -/
abbrev OneStep (r : ModRec) (tg : Target) (st : LineStep) : Prop :=
  r.state = .paused ∧ tg.state = .running ∧ st = .clockOn ∨ r.state = .running ∧ tg.state = .paused ∧ st = .clockOff ∨
    r.state = .paused ∧ tg = .off ∧ st = .resetAssert

section
variable {r : ModRec} {tg : Target} {st : LineStep}

theorem OneStep.waits_iff (h : OneStep r tg st) {ready : Bool} :
    completesAtBegin ready st = false ↔ (st = .clockOn ∧ ready = false) ∨ (st = .clockOff ∧ ready = true) := by
  rcases h with ⟨-, -, rfl⟩ | ⟨-, -, rfl⟩ | ⟨-, -, rfl⟩ <;> simp [completesAtBegin]

/-- The record after the one step stands at the target, with the target's flags (R85). -/
theorem OneStep.afterStep (h : OneStep r tg st) :
    (({ r with stepping := true } : ModRec).driveStep st).afterStep st tg true =
      { r.driveStep st with
        stepping := true, state := tg.state, armed := decide (tg = .pausedArmed)
        woken := decide (tg = .runningWoken) } := by
  have hflags : (tg = .pausedArmed ∧ tg.state = .paused ↔ tg = .pausedArmed) ∧
      (tg = .runningWoken ∧ tg.state = .running ↔ tg = .runningWoken) := by
    cases tg <;> decide
  have hnext : stateAfter st r.state = tg.state := by
    rcases h with ⟨hr, ht, rfl⟩ | ⟨hr, ht, rfl⟩ | ⟨hr, rfl, rfl⟩ <;> rw [hr]
    · exact ht.symm
    · exact ht.symm
    · rfl
  have hst : st ≠ .resetRelease := by
    rcases h with ⟨-, -, rfl⟩ | ⟨-, -, rfl⟩ | ⟨-, -, rfl⟩ <;> decide
  rw [ModRec.afterStep_last hst]
  simp only [ModRec.driveStep_state, hnext, hflags]
  cases st <;> rfl

end

section
variable {s : State} {e : Domain} {m : Module} {tg : Target} {st : LineStep}

/-- The path of one step is run, and a domain in LINGER is left where the step is CLOCK_ON (R105). -/
theorem State.takeEntry_oneStep (h : OneStep (s.modAt m) tg st) :
    ∃ v, s.takeEntry e { module := m, target := tg, restart := none } =
        (s.withDoms v).write e m ((s.started e m).path s.pins.mrdy[m] m tg none [st]) ∧
      ∀ x : SwDom, v[x] =
        if st = .clockOn ∧ x.domain = e ∧ s.engines.doms[x].state = .linger then
          { s.engines.doms[x] with state := .on, lingerCount := none }
        else s.engines.doms[x] := by
  rcases h with ⟨hr, ht, rfl⟩ | ⟨hr, ht, rfl⟩ | ⟨hr, rfl, rfl⟩
  · have hp : planOf (s.modAt m) tg = .up [.clockOn] := by simp [planOf, hr, ht]
    refine ⟨(s.leaveLinger e).engines.doms, ?_, fun x => ?_⟩
    · rw [State.takeEntry_up rfl hp, ← s.leaveLinger_eq_withDoms e]
    · rw [State.leaveLinger_doms]
      exact if_congr (by simp) rfl rfl
  · have hp : planOf (s.modAt m) tg = .down [.clockOff] := by simp [planOf, hr, ht]
    exact ⟨s.engines.doms, State.takeEntry_down rfl hp, fun x => (if_neg nofun).symm⟩
  · have hp : planOf (s.modAt m) .off = .down [.resetAssert] := by simp [planOf, hr, Target.state]
    exact ⟨s.engines.doms, State.takeEntry_down rfl hp, fun x => (if_neg nofun).symm⟩

/-- What the one step leaves where it waits for MRDY (R90). -/
theorem State.started_waits (h : OneStep (s.modAt m) tg st) {ready : Bool}
    (hwaits : (st = .clockOn ∧ ready = false) ∨ (st = .clockOff ∧ ready = true)) :
    (s.started e m).path ready m tg none [st] =
      { mod := { (s.modAt m).driveStep st with stepping := true }
        eng :=
          { queue := withoutEntry m s.engines.recs[e].queue
            work := .transition { module := m, steps := [st], target := tg, restart := none }
            timer := some (s.modAt m).ackTimeout }
        ct := [], dr := [], alerts := [] } := by
  rw [EngineWrite.path_waits (h.waits_iff.2 hwaits)]
  rcases hwaits with ⟨rfl, -⟩ | ⟨rfl, -⟩ <;> rfl

/-- What the one step leaves where it completes at its begin: the transition has ended (R81, R85, R93). -/
theorem State.started_completes (h : OneStep (s.modAt m) tg st) {ready : Bool}
    (hcompletes : ¬((st = .clockOn ∧ ready = false) ∨ (st = .clockOff ∧ ready = true))) :
    let old := s.modAt m
    let new : ModRec := { old.driveStep st with
      stepping := true, state := tg.state, armed := decide (tg = .pausedArmed), woken := decide (tg = .runningWoken) }
    (s.started e m).path ready m tg none [st] =
      { mod := { new with stepping := false, pendingRestart := none }
        eng :=
          { queue := withoutEntry m s.engines.recs[e].queue ++ entryAfter m new, work := .idle, timer := none }
        ct := levelNoticeFor m old new, dr := stateNoticeFor m old new, alerts := [] } := by
  intro old new
  have hnew : (({ old with stepping := true } : ModRec).driveStep st).afterStep st tg true = new := h.afterStep
  have hbegin : completesAtBegin ready st = true :=
    Bool.of_not_eq_false fun hf => hcompletes (h.waits_iff.1 hf)
  have hlevel : (({ old with stepping := true } : ModRec).driveStep st).level = old.level := by cases st <;> rfl
  have hview : (({ old with stepping := true } : ModRec).driveStep st).view = old.view := by cases st <;> rfl
  have hct : levelNoticeFor m (({ old with stepping := true } : ModRec).driveStep st) new = levelNoticeFor m old new := by
    unfold levelNoticeFor
    rw [hlevel]
  have hdr : stateNoticeFor m (({ old with stepping := true } : ModRec).driveStep st) new = stateNoticeFor m old new := by
    unfold stateNoticeFor
    rw [hview]
  have hcompleted : ((s.started e m).begun st).completed m st tg true =
      { mod := new
        eng := { s.engines.recs[e] with queue := withoutEntry m s.engines.recs[e].queue, timer := none }
        ct := levelNoticeFor m old new, dr := stateNoticeFor m old new, alerts := [] } := by
    rw [← hct, ← hdr, ← hnew]
    rfl
  rw [EngineWrite.path_completes hbegin, List.isEmpty_nil, hcompleted]
  simp only [EngineWrite.path, EngineWrite.ended, EngineWrite.compared, doneNotices, doneAlerts, Option.isSome_none,
    Bool.false_eq_true, if_false, List.append_nil]
  rfl

end

end Sys2Proof.Machine


namespace Sys2Proof.Machine

/-! ### The first move of TAKE_ENTRY -/

section
variable {s : State} {e : Domain} {m : Module} {tg : Target}

/-- A take-down or a restart from RUNNING asserts reset and holds (R91, R92, R132 to R134). -/
theorem State.takeEntry_fromRunning {restart : Option Port} (hrun : (s.modAt m).state = .running)
    (hoff : restart = none ↔ tg = .off)
    (hdep : restart ≠ none → ∀ k : Module, (s.engineDir k).present = true → (s.engineDir k).supplier = some m →
      (s.modAt k).up = false) :
    s.takeEntry e { module := m, target := tg, restart := restart } = s.write e m
      { mod := { s.modAt m with
          state := .held, armed := false, woken := false, stepping := true, resetReleased := false }
        eng :=
          { queue := withoutEntry m s.engines.recs[e].queue
            work := .transition
              { module := m, target := tg, restart := restart
                steps := if restart = none then [.hold, .clockOff] else [.hold, .resetRelease] }
            timer := some (s.modAt m).resetHold }
        ct := (if restart = none then [] else [.restartStart m]) ++ [.level m 0 (s.modAt m).gen]
        dr := [.state m { state := .held, armed := false, woken := false }]
        alerts := [] } := by
  cases restart with
  | none =>
    obtain rfl := hoff.1 rfl
    have hp : planOf (s.modAt m) .off = .down [.resetAssert, .hold, .clockOff] := by
      simp [planOf, hrun, Target.state]
    rw [State.takeEntry_down rfl hp]
    exact congrArg (s.write e m) (State.started_resetHold hrun [] ..)
  | some p =>
    have hpasses : s.restartPasses m tg = true :=
      State.restartPasses_iff.2 ⟨.inr hrun, hdep nofun, hoff.not.1 nofun⟩
    rw [State.takeEntry_restarts rfl hpasses]
    dsimp only
    rw [hrun]
    exact congrArg (s.write e m) (State.started_resetHold hrun [.restartStart m] ..)

/-- A flag-only change (R84). -/
theorem State.takeEntry_changesFlags (hup : (s.modAt m).state = .paused ∨ (s.modAt m).state = .running)
    (ht : tg.state = (s.modAt m).state) (hv : (s.modAt m).view ≠ tg.view) :
    let old := s.modAt m
    let new : ModRec := { old with armed := decide (tg = .pausedArmed), woken := decide (tg = .runningWoken) }
    s.takeEntry e { module := m, target := tg, restart := none } = s.write e m
      { mod := { new with pendingRestart := none }
        eng := { s.engines.recs[e] with queue := withoutEntry m s.engines.recs[e].queue ++ entryAfter m new }
        ct := levelNoticeFor m old new, dr := [.state m tg.view], alerts := [] } := by
  intro old new
  have hplan : planOf (s.modAt m) tg = .flagOnly := by
    rw [planOf_flagOnly_iff, ChangesFlags, ← Target.state_eq_paused, ← Target.state_eq_running, ht]
    exact ⟨hup.imp (fun h => ⟨h, h⟩) fun h => ⟨h, h⟩, hv⟩
  have hnew : new.view = tg.view := by
    unfold Target.view
    rw [ht]
    rfl
  have hdr : stateNoticeFor m old new = [.state m tg.view] := by
    rw [stateNoticeFor, hnew, if_neg hv]
  rw [State.takeEntry_flagOnly rfl hplan, ← hdr]
  rfl

/-- A restart that fails its check (R132). -/
theorem State.restartPasses_eq_false
    (h : (s.modAt m).state ≠ .paused ∧ (s.modAt m).state ≠ .running ∨ tg = .off ∨
      ∃ k : Module, (s.engineDir k).present = true ∧ (s.engineDir k).supplier = some m ∧ (s.modAt k).up = true) :
    s.restartPasses m tg = false := by
  refine Bool.eq_false_iff.2 fun hpasses => ?_
  obtain ⟨hup, hdep, htg⟩ := State.restartPasses_iff.1 hpasses
  rcases h with ⟨hp, hr⟩ | ht | ⟨k, hk, hs, hku⟩
  · exact hup.elim hp hr
  · exact htg ht
  · rw [hdep k hk hs] at hku
    cases hku

/-- A ramp that is due comes before the queue (R89, R101). -/
theorem State.engineMove_ramp {x : SwDom} {en : Entry} (hidle : s.engines.recs[x.domain].work = .idle)
    (hoff : s.engines.doms[x].state = .off) (hneed : s.engines.doms[x].need = true)
    (hen : en ∈ s.engines.recs[x.domain].queue) (hr : en.restart = none) :
    s.engineMove x.domain = some (s.beginRampUp x) := by
  have hup : s.engines.recs[x.domain].queue.any (·.restart.isNone) = true :=
    List.any_eq_true.2 ⟨en, hen, by rw [hr]; rfl⟩
  have hdue : s.rampUpDue x = true := by
    rw [State.rampUpDue, hoff, hneed, hup, hidle]
    rfl
  rw [State.engineMove, if_neg (not_not.2 hidle), switchedOf_eq_some.2 rfl, Option.any_some, if_pos hdue]
  rfl

end

/-- Settles O44: eligibility is R87's, and each kind of entry is taken by one write, behind a ramp that is due. -/
theorem theEngineTakesTheOldestEligibleEntry : Obligations.TheEngineTakesTheOldestEligibleEntry := by
  unfold Obligations.TheEngineTakesTheOldestEligibleEntry
  refine ⟨fun s e en => s.eligible_iff en, fun r => ?_, by decide, fun s e hr hw => ?_,
    fun s e en before rest => State.engineMove_oldest, fun s e hr => ⟨fun h => ?_, fun u h => ?_⟩, ?_, ?_, ?_, ?_, ?_, ?_,
    ?_⟩
  · unfold ModRec.level
    cases r.state <;> rfl
  · rw [exec_takeEntry hr, State.settleEngine_still (State.engineMove_busy hw)]
  · rw [exec_takeEntry hr, State.settleEngine_still h]
  · rw [exec_takeEntry hr, State.settleEngine_some h]
  · intro s e m tg before rest hr hidle hd hq hbefore hoff htg hsup path old up held ready
    have hmove := State.engineMove_oldest hidle (State.not_off_of_powered hd) hq hbefore
      (State.eligible_bringUp hd hoff htg hsup)
    obtain ⟨honly, htime, hdir, hothers, hrecs, hdoms, hrec, hmod, hlinks⟩ :=
      State.leaves_of_withDoms (State.takeEntry_bringUp (e := e) hoff htg) rfl
    rw [modifyAt_append_if, modifyAt_append_if] at hlinks
    refine ⟨_, exec_takeEntry_begins hr hmove (by rw [hrec]; exact nofun), honly, htime, hlinks, hrec, hmod, hothers, hrecs,
      hdir, fun x => ?_⟩
    rw [hdoms]
    exact s.leaveLinger_doms e x
  · intro s e m tg restart before rest hr hidle hon hq hbefore hrun hoff hdep
    have hel : s.eligible e { module := m, target := tg, restart := restart } = true := by
      cases restart with
      | none =>
        obtain rfl := hoff.1 rfl
        exact State.eligible_takeDown hrun fun k hp hk =>
          (hdep k hp hk).imp_right fun h => h.imp_right fun h => h.imp_right And.right
      | some p => exact (s.eligible_iff _).2 (.inl nofun)
    have hmove := State.engineMove_oldest hidle (State.not_off_of_powered (.inl hon)) hq hbefore hel
    have hdown (hrestart : restart ≠ none) (k : Module) (hp : (s.engineDir k).present = true)
        (hk : (s.engineDir k).supplier = some m) : (s.modAt k).up = false :=
      ModRec.not_up (hdep k hp hk).1 ((hdep k hp hk).2.imp_right fun h => h.resolve_right fun h => hrestart h.1)
    obtain ⟨honly, htime, hsame, hrec, hmod, hlinks⟩ :=
      State.leaves_of_write (State.takeEntry_fromRunning (e := e) hrun hoff hdown) rfl
    refine ⟨_, exec_takeEntry_begins hr hmove (by rw [hrec]; exact nofun), honly, htime, hsame, hrec, hmod, ?_⟩
    simp only [← List.append_assoc] at hlinks
    exact hlinks
  · intro s e m tg p before rest hr hidle hon hq hbefore hpaused htg hdep old asserted driven held ready path
    have hmove := State.engineMove_oldest hidle (State.not_off_of_powered (.inl hon)) hq hbefore
      ((s.eligible_iff _).2 (.inl nofun))
    have hu := State.takeEntry_restarts (s := s) (e := e) (en := { module := m, target := tg, restart := some p }) rfl
      (State.restartPasses_iff.2 ⟨.inl hpaused, hdep, htg⟩)
    dsimp only at hu
    rw [hpaused] at hu
    obtain ⟨honly, htime, hsame, hrec, hmod, hlinks⟩ := State.leaves_of_write
      (hu.trans (congrArg (s.write e m) (State.started_restartPaused hpaused [.restartStart m] (some p)))) rfl
    exact ⟨_, exec_takeEntry_begins hr hmove (by rw [hrec]; exact nofun), honly, htime, hsame, hrec, hmod, hlinks⟩
  · intro s e m tg st h u kept old begun new waits
    obtain ⟨v, hu, hv⟩ := State.takeEntry_oneStep (e := e) h
    by_cases hwaits : waits
    · rw [State.started_waits h hwaits] at hu
      obtain ⟨honly, htime, hdir, hothers, hrecs, hdoms, hrec, hmod, hlinks⟩ := State.leaves_of_withDoms hu rfl
      rw [modifyAt_append_nil, modifyAt_append_nil] at hlinks
      exact ⟨honly, htime, hdir, hothers, hrecs, fun x => by rw [hdoms]; exact hv x, fun _ => ⟨hmod, hlinks, hrec⟩,
        fun hn => absurd hwaits hn⟩
    · rw [State.started_completes h hwaits] at hu
      obtain ⟨honly, htime, hdir, hothers, hrecs, hdoms, hrec, hmod, hlinks⟩ := State.leaves_of_withDoms hu rfl
      exact ⟨honly, htime, hdir, hothers, hrecs, fun x => by rw [hdoms]; exact hv x, fun hn => absurd hn hwaits,
        fun _ => ⟨hmod, hrec, hlinks⟩⟩
  · intro s e m tg hup ht hv u old new
    obtain ⟨honly, htime, hsame, hrec, hmod, hlinks⟩ :=
      State.leaves_of_write (State.takeEntry_changesFlags (e := e) hup ht hv) rfl
    exact ⟨honly, htime, hsame, hmod, hrec, hlinks⟩
  · intro s e m tg p h u kept
    obtain ⟨honly, htime, hsame, hrec, hmod, hlinks⟩ := State.all_of_write (State.takeEntry_fails (s := s) (e := e)
      (en := { module := m, target := tg, restart := some p }) rfl (State.restartPasses_eq_false h))
    refine ⟨honly, htime, hsame, hmod, hrec.trans ?_, hlinks.trans ?_⟩
    · dsimp only
      split
      · rw [List.append_nil]
        rfl
      · rfl
    · rw [show (State.dequeued s e m).dr = [] from rfl, modifyAt_append_nil]
  · intro s x en hr hidle hoff hneed hen hrestart hdpg
    have hmove := State.engineMove_ramp hidle hoff hneed hen hrestart
    rw [State.beginRampUp_eq, if_neg (by rw [hdpg]; exact Bool.false_ne_true)] at hmove
    exact ⟨_, exec_takeEntry_begins hr hmove (by rw [State.writeDom_recs]; exact nofun),
      ⟨rfl, rfl, rfl, rfl, rfl, rfl, rfl, rfl⟩, rfl, rfl, rfl, rfl, s.writeDom_doms x _ _,
      fun y hy => s.writeDom_doms_ne x _ _ hy, s.writeDom_recs x _ _, fun d hd => s.writeDom_recs_ne x _ _ hd⟩

end Sys2Proof.Machine


namespace Sys2Proof.Machine

/-! ### One write for each of several modules, in their order (R110, R150) -/

theorem allModules_ascending : allModules.Pairwise (· < ·) := List.pairwise_lt_finRange 32

theorem allModules_nodup : allModules.Nodup := List.nodup_finRange 32

/-- Engine `e` makes a write about each module of `l` in turn, each worked out on the state that it meets. -/
def State.writeEach (e : Domain) (w : State → Module → EngineWrite) (l : List Module) (s : State) : State :=
  l.foldl (fun u m => u.write e m (w u m)) s

section
variable (e : Domain) (w : State → Module → EngineWrite)

theorem State.writeEach_cons (a : Module) (l : List Module) (s : State) :
    State.writeEach e w (a :: l) s = State.writeEach e w l (s.write e a (w s a)) := rfl

theorem State.writeEach_append (a b : List Module) (s : State) :
    State.writeEach e w (a ++ b) s = State.writeEach e w b (State.writeEach e w a s) := List.foldl_append

/-- What every write keeps, the writes keep. -/
theorem State.writeEach_keeps (P : State → Prop) (h : ∀ u m, P u → P (u.write e m (w u m))) (l : List Module)
    {s : State} (hs : P s) : P (State.writeEach e w l s) := foldl_keeps P _ h l s hs

/-- The writes touch the engines and the streams in flight only. -/
theorem State.writeEach_onlyEngines (l : List Module) (s : State) :
    OnlyEngines s (State.writeEach e w l s) ∧ (State.writeEach e w l s).timebase = s.timebase :=
  State.writeEach_keeps e w (fun u => OnlyEngines s u ∧ u.timebase = s.timebase) (fun _ _ h => h) l
    ⟨⟨rfl, rfl, rfl, rfl, rfl, rfl, rfl, rfl⟩, rfl⟩

/-- The writes leave the directory and the domains' records. -/
theorem State.writeEach_records (l : List Module) (s : State) :
    (State.writeEach e w l s).engines.dir = s.engines.dir ∧ (State.writeEach e w l s).engines.doms = s.engines.doms :=
  State.writeEach_keeps e w (fun u => u.engines.dir = s.engines.dir ∧ u.engines.doms = s.engines.doms)
    (fun _ _ h => h) l ⟨rfl, rfl⟩

/-- The writes leave what the other engines hold. -/
theorem State.writeEach_recs_ne (l : List Module) (s : State) {d : Domain} (h : d ≠ e) :
    (State.writeEach e w l s).engines.recs[d] = s.engines.recs[d] :=
  State.writeEach_keeps e w (fun u => u.engines.recs[d] = s.engines.recs[d])
    (fun u m hu => (u.write_recs_ne e m (w u m) h).trans hu) l rfl

/-- The writes leave the record of every module that is not among theirs. -/
theorem State.writeEach_modAt_ne {l : List Module} {k : Module} (h : k ∉ l) (s : State) :
    (State.writeEach e w l s).modAt k = s.modAt k := by
  induction l generalizing s with
  | nil => rfl
  | cons a l ih =>
    rw [List.mem_cons, not_or] at h
    rw [State.writeEach_cons, ih h.2, State.write_modAt_ne _ _ _ _ h.1]

/-- Where it is known what each write says in its turn, but for what the engine itself holds, it is known what they all
leave. -/
theorem State.writeEach_due {l : List Module} (hl : l.Nodup) {s : State} (due : Module → EngineWrite)
    (h : ∀ before m after, l = before ++ m :: after →
      w (State.writeEach e w before s) m = { due m with eng := (w (State.writeEach e w before s) m).eng }) :
    (∀ m ∈ l, (State.writeEach e w l s).modAt m = (due m).mod) ∧
      (State.writeEach e w l s).links = { s.links with
        toCt := modifyAt s.links.toCt e (· ++ l.flatMap fun m => (due m).ct)
        toDr := modifyAt s.links.toDr e (· ++ l.flatMap fun m => (due m).dr)
        alerts := s.links.alerts ++ l.flatMap fun m => (due m).alerts } := by
  induction l generalizing s with
  | nil =>
    refine ⟨nofun, ?_⟩
    change s.links = { s.links with
      toCt := modifyAt s.links.toCt e (· ++ []), toDr := modifyAt s.links.toDr e (· ++ [])
      alerts := s.links.alerts ++ [] }
    rw [modifyAt_append_nil, modifyAt_append_nil, List.append_nil]
  | cons a l ih =>
    obtain ⟨ha, hl⟩ := List.nodup_cons.1 hl
    have hfirst : w s a = { due a with eng := (w s a).eng } := h [] a l rfl
    obtain ⟨hmods, hlinks⟩ := ih hl (s := s.write e a (w s a)) fun before m after hb =>
      h (a :: before) m after (by rw [hb]; rfl)
    rw [State.writeEach_cons]
    refine ⟨fun m hm => ?_, ?_⟩
    · rcases List.mem_cons.1 hm with rfl | hm
      · rw [State.writeEach_modAt_ne e w ha, State.write_modAt, hfirst]
      · exact hmods m hm
    · rw [hlinks, State.write_links, hfirst]
      simp only [List.flatMap_cons, modifyAt_append, List.append_assoc]

end

end Sys2Proof.Machine


namespace Sys2Proof.Machine

/-! ### The modules of a domain enter FAULT with it (R110, R139) -/

theorem flatMap_filter {α β : Type} (p : α → Bool) (f : α → List β) (l : List α) :
    (l.filter p).flatMap f = l.flatMap fun a => if p a then f a else [] := by
  induction l with
  | nil => rfl
  | cons a l ih => cases h : p a <;> simp [h, ih]

/-- What the entry into FAULT with its domain writes about a module, if it enters (R110). -/
def State.faultingOwn (e : Domain) (s : State) (m : Module) : EngineWrite :=
  if s.faultable e m then s.faulting e m .domain else s.kept e m

section
variable {s u : State} {e : Domain} {k m : Module}

theorem State.faultOwn_eq_write (s : State) (m : Module) : s.faultOwn e m = s.write e m (s.faultingOwn e m) := by
  unfold State.faultOwn State.faultingOwn
  split
  · exact s.faultModule_eq_write ..
  · exact (s.write_kept ..).symm

theorem State.foldl_faultOwn (l : List Module) (s : State) :
    l.foldl (State.faultOwn e) s = State.writeEach e (State.faultingOwn e) l s :=
  congrArg (fun f => l.foldl f s) (funext fun u => funext fun m => u.faultOwn_eq_write m)

/-- The entry of another module stays where it is. -/
theorem find?_withoutEntry (h : m ≠ k) (q : List Entry) :
    (withoutEntry k q).find? (·.module = m) = q.find? (·.module = m) := by
  rw [withoutEntry, List.find?_filter]
  congr 1
  funext en
  by_cases hen : en.module = m <;> simp [hen, h]

/-- A transition of another module stays in flight. -/
theorem workWithout_flight (h : m ≠ k) (w : Work) (t : Transition) (ht : t.module = m) :
    workWithout k w = .transition t ↔ w = .transition t :=
  workWithout_eq_transition.trans (and_iff_left (by rw [ht]; exact h))

/-- The restart that stands of one module stands when another has entered FAULT (R136). -/
theorem State.restartStanding_write {w : EngineWrite} (h : m ≠ k) (hw : w.eng = s.engines.recs[e].without k) :
    (s.write e k w).restartStanding e m = s.restartStanding e m := by
  have hflight : (((s.write e k w).inFlight e).bind fun t => if t.module = m then t.restart else none) =
      (s.inFlight e).bind fun t => if t.module = m then t.restart else none := by
    refine Option.ext fun p => ?_
    simp only [Option.bind_eq_some_iff, State.inFlight_eq_some, State.write_recs, hw]
    refine exists_congr fun t => and_congr_left fun ht => ?_
    split at ht
    · exact workWithout_flight h _ t ‹_›
    · cases ht
  unfold State.restartStanding
  rw [hflight, State.write_recs, hw, State.write_modAt_ne _ _ _ _ h, EngineRec.without, find?_withoutEntry h]

/-- Between `s` and `u` nothing changed that decides what module `m` of engine `e` enters FAULT with (R139). -/
structure SameStanding (e : Domain) (m : Module) (s u : State) : Prop where
  dir : u.engineDir m = s.engineDir m
  mod : u.modAt m = s.modAt m
  restart : u.restartStanding e m = s.restartStanding e m
  owners : u.dr.dir = s.dr.dir

theorem SameStanding.refl (s : State) : SameStanding e m s s := ⟨rfl, rfl, rfl, rfl⟩

/-- Another module's entry into FAULT changes nothing of it. -/
theorem SameStanding.write (h : SameStanding e m s u) (hk : m ≠ k) :
    SameStanding e m s (u.write e k (u.faultingOwn e k)) := by
  unfold State.faultingOwn
  split
  · exact ⟨h.dir, (State.write_modAt_ne _ _ _ _ hk).trans h.mod, (State.restartStanding_write hk rfl).trans h.restart,
      h.owners⟩
  · rw [State.write_kept]
    exact h

theorem sameStanding_writeEach {l : List Module} (h : m ∉ l) (hu : SameStanding e m s u) :
    SameStanding e m s (State.writeEach e (State.faultingOwn e) l u) := by
  induction l generalizing u with
  | nil => exact hu
  | cons a l ih =>
    rw [List.mem_cons, not_or] at h
    exact ih h.2 (hu.write h.1)

theorem SameStanding.faultingOwn (h : SameStanding e m s u) :
    u.faultingOwn e m = { s.faultingOwn e m with eng := (u.faultingOwn e m).eng } := by
  obtain ⟨hdir, hmod, hrestart, howners⟩ := h
  have hfaultable : u.faultable e m = s.faultable e m := by rw [State.faultable, State.faultable, hdir, hmod]
  unfold State.faultingOwn
  rw [hfaultable]
  split
  · simp only [State.faulting, faultAlerts, hmod, hrestart, howners]
  · simp only [State.kept, hmod]

/-- What the entry of an engine's modules into FAULT leaves, in their order (R110, R136, R139). -/
theorem State.writeEach_faultingOwn {l : List Module} (hl : l.Nodup) (s : State) :
    (∀ m ∈ l, (State.writeEach e (State.faultingOwn e) l s).modAt m =
      if s.faultable e m then (s.modAt m).faulted .domain else s.modAt m) ∧
    (State.writeEach e (State.faultingOwn e) l s).links = { s.links with
      toCt := modifyAt s.links.toCt e
        (· ++ (l.filter (s.faultable e)).flatMap fun m =>
          .fault m .domain :: if (s.restartStanding e m).isSome then [.restartEnd m] else [])
      toDr := modifyAt s.links.toDr e (· ++ (l.filter (s.faultable e)).map fun m => .fault m .domain)
      alerts := s.links.alerts ++
        (l.filter (s.faultable e)).flatMap fun m => faultAlerts s m ++ failureAlerts m (s.restartStanding e m) } := by
  obtain ⟨hmods, hlinks⟩ := State.writeEach_due e (State.faultingOwn e) hl (s.faultingOwn e) fun before m after hb => by
    have hm : m ∉ before := fun hm => List.disjoint_of_nodup_append (hb ▸ hl) hm (List.mem_cons_self ..)
    exact (sameStanding_writeEach hm (.refl s)).faultingOwn
  refine ⟨fun m hm => ?_, ?_⟩
  · rw [hmods m hm, State.faultingOwn]
    split <;> rfl
  · rw [hlinks, List.map_eq_flatMap, flatMap_filter, flatMap_filter, flatMap_filter]
    unfold State.faultingOwn
    simp only [apply_ite EngineWrite.ct, apply_ite EngineWrite.dr, apply_ite EngineWrite.alerts]
    rfl

end

end Sys2Proof.Machine


namespace Sys2Proof.Machine

/-! ### A domain enters FAULT (R102, R107, R109, R110, R143) -/

section
variable {s : State} {x : SwDom}

/-- A write about the domain that leaves queue and transition leaves the restarts that stand (R136). -/
theorem DomFits.restartStanding {d : DomRec} {g : EngineRec} (h : DomFits s x d g) (e : Domain) (m : Module) :
    (s.writeDom x d g).restartStanding e m = s.restartStanding e m := by
  unfold State.restartStanding
  rw [h.queue_at, h.inFlight]
  rfl

/-- The modules' entry into FAULT begins with the domain in FAULT and its ramp ended, and their queue is then emptied. -/
theorem State.faultDomain_eq_writeEach (s : State) (x : SwDom) (c : DomCause) :
    s.faultDomain x c =
      (((State.writeEach x.domain (State.faultingOwn x.domain) allModules
        (s.writeDom x (s.engines.doms[x].faulted c) s.engines.recs[x.domain].rampless)).onRec x.domain fun g =>
          { g with queue := [] }).alert 0 (.domain x) .domainFault) := by
  rw [State.faultDomain_eq, State.foldl_faultOwn]

/-- The domain's record once it is in FAULT (R110). -/
theorem State.faultDomain_doms (s : State) (x : SwDom) (c : DomCause) :
    (s.faultDomain x c).engines.doms = s.engines.doms.set x (s.engines.doms[x].faulted c) := by
  obtain ⟨-, hdoms⟩ := State.writeEach_records x.domain (State.faultingOwn x.domain) allModules
    (s.writeDom x (s.engines.doms[x].faulted c) s.engines.recs[x.domain].rampless)
  rw [State.faultDomain_eq_writeEach, State.alert_engines, State.onRec_engines, hdoms]
  rfl

/-- The engine of a domain in FAULT holds nothing: every module of it that could have an entry or a transition, or the ramp
that could be in flight, has gone (R89, R110). -/
theorem State.faultDomain_rec (hs : EnginesRight s) (c : DomCause) :
    (s.faultDomain x c).engines.recs[x.domain] = { queue := [], work := .idle, timer := none } := by
  have hright := enginesRight_faultDomain hs x c
  have hstate : (s.faultDomain x c).engines.doms[x].state = .fault := by
    rw [State.faultDomain_doms, set_get_self]; rfl
  have hqueue : (s.faultDomain x c).engines.recs[x.domain].queue = [] := by
    rw [State.faultDomain_eq, State.alert_engines, State.onRec_engines, modifyAt_get_self]
  have hramp := (hright.sound.ramps.2 x).not.2 (by rw [hstate]; decide)
  have hflight := hright.no_transition (x := x) (by rw [hstate]; decide)
  have htimer := hright.sound.timers x.domain
  revert hqueue hramp hflight htimer
  generalize (s.faultDomain x c).engines.recs[x.domain] = g
  obtain ⟨queue, work, timer⟩ := g
  intro hqueue hramp hflight htimer
  cases work with
  | ramp => exact absurd rfl hramp
  | transition t => exact absurd rfl (hflight t)
  | idle =>
    have hnone : timer = none := Option.isNone_iff_eq_none.1 (by simpa using htimer)
    rw [hnone]
    exact congrArg (EngineRec.mk · .idle none) hqueue

/-- An engine whose domain is in FAULT and whose queue is empty has nothing to do (R86, R89, R101, R103). -/
theorem State.engineMove_faulted (hd : s.engines.doms[x].state = .fault) (hq : s.engines.recs[x.domain].queue = []) :
    s.engineMove x.domain = none := by
  have hramp : s.rampUpDue x = false := by rw [State.rampUpDue, hd]; rfl
  have hidle : s.idleDue x = false := by rw [State.idleDue, hd]; rfl
  unfold State.engineMove
  rw [switchedOf_domain, Option.any_some, Option.any_some, hramp, hidle, hq]
  simp

/-- What a domain's entry into FAULT leaves, as the statement says it (R110, R136, R139, R143). -/
theorem State.faultDomain_leaves (hs : EnginesRight s) (c : DomCause) :
    let t := s.faultDomain x c
    let faulted := allModules.filter (s.faultable x.domain)
    OnlyEngines s t ∧ t.timebase = s.timebase ∧ t.engines.dir = s.engines.dir ∧
      t.engines.doms[x] = s.engines.doms[x].faulted c ∧
      (∀ y : SwDom, y ≠ x → t.engines.doms[y] = s.engines.doms[y]) ∧
      t.engines.recs[x.domain] = { queue := [], work := .idle, timer := none } ∧
      (∀ d : Domain, d ≠ x.domain → t.engines.recs[d] = s.engines.recs[d]) ∧
      (∀ m : Module, t.modAt m = if s.faultable x.domain m then (s.modAt m).faulted .domain else s.modAt m) ∧
      t.links = { s.links with
        toCt := modifyAt s.links.toCt x.domain
          (· ++ faulted.flatMap fun m =>
            .fault m .domain :: if (s.restartStanding x.domain m).isSome then [.restartEnd m] else [])
        toDr := modifyAt s.links.toDr x.domain (· ++ faulted.map fun m => .fault m .domain)
        alerts := s.links.alerts ++
          (faulted.flatMap fun m => faultAlerts s m ++ failureAlerts m (s.restartStanding x.domain m)) ++
          [{ port := 0, subject := .domain x, reason := .domainFault }] } := by
  intro t faulted
  have hfits := domFits_faulted (x := x) hs.sound c
  obtain ⟨honly, htime, hdir⟩ := enginesOnly_faultDomain s x c
  refine ⟨honly, htime, hdir, ?_, fun y hy => ?_, State.faultDomain_rec hs c, fun d hd => ?_, ?_⟩
  · rw [State.faultDomain_doms, set_get_self]
  · rw [State.faultDomain_doms, set_get_ne _ _ hy]
  · unfold t
    rw [State.faultDomain_eq_writeEach, State.alert_engines, State.onRec_engines, modifyAt_get_ne _ _ hd,
      State.writeEach_recs_ne _ _ _ _ hd, State.writeDom_recs_ne _ _ _ _ hd]
  · obtain ⟨hmods, hlinks⟩ := State.writeEach_faultingOwn (e := x.domain) allModules_nodup
      (s.writeDom x (s.engines.doms[x].faulted c) s.engines.recs[x.domain].rampless)
    simp only [hfits.restartStanding] at hlinks
    have hmodAt (m : Module) : t.modAt m = (State.writeEach x.domain (State.faultingOwn x.domain) allModules
        (s.writeDom x (s.engines.doms[x].faulted c) s.engines.recs[x.domain].rampless)).modAt m := by
      unfold t
      rw [State.faultDomain_eq_writeEach, State.modAt, State.alert_engines, State.onRec_engines]
      rfl
    refine ⟨fun m => (hmodAt m).trans (hmods m (mem_allModules m)), ?_⟩
    unfold t
    rw [State.faultDomain_eq_writeEach, State.alert_links, State.onRec_links, hlinks]
    rfl

/-- A fall of DPG with no edge of it waiting is taken with its pin changed (R45, R109). -/
theorem exec_dpgFall (hr : Running s) (hs : Settled s (.dpg x)) (hpin : s.pins.dpg[x] = true) :
    exec (.dpgFall x) s = .next ((afterInput s (.dpgFall x)).takePowerFall x) :=
  congrArg Host.Outcome.next (State.edge_taken (g := { pin := .dpg x, up := false }) hr hs (by
    rw [show s.pins.level (.dpg x) = s.pins.dpg[x] from rfl, hpin]; exact Bool.false_ne_true.symm))

/-- The ramp timeout is taken once the time left on the step timer has passed (R102). -/
theorem exec_rampTimeout (hr : Running s) (hd : s.engines.doms[x].state = .rampUp) :
    exec (.rampTimeout x) s =
      .next (((s.elapse (s.timerLeft x.domain)).faultDomain x .noPowerGood).settleEngine x.domain) := by
  change Host.Outcome.next (s.awake _) = _
  rw [State.awake_running _ hr, if_pos hd]

/-- The off timeout is taken once the time left on the step timer has passed (R107). -/
theorem exec_offTimeout (hr : Running s) (hd : s.engines.doms[x].state = .rampDown) :
    exec (.offTimeout x) s =
      .next (((s.elapse (s.timerLeft x.domain)).faultDomain x .stuckOn).settleEngine x.domain) := by
  change Host.Outcome.next (s.awake _) = _
  rw [State.awake_running _ hr, if_pos hd]

/-- A fall of DPG in ON and in LINGER is a loss of power (R109). -/
theorem State.takePowerFall_loses (hd : s.engines.doms[x].state = .on ∨ s.engines.doms[x].state = .linger) :
    s.takePowerFall x = (s.faultDomain x .powerLost).settleEngine x.domain := by
  unfold State.takePowerFall
  rcases hd with hd | hd <;> rw [hd]

end

/-- Settles O50: each cause puts the domain into FAULT in the state that its input leaves, its modules follow by one write
each, and the engine then has nothing to do. -/
theorem domainsEnterFault : Obligations.DomainsEnterFault := by
  unfold Obligations.DomainsEnterFault
  intro s x i cause hr hs hcause b standing faulted
  have hx : exec i s = .next ((b.faultDomain x cause).settleEngine x.domain) := by
    obtain ⟨rfl, hd, rfl⟩ | ⟨rfl, hd, rfl⟩ | ⟨rfl, hpin, hsettled, rfl, hd⟩ := hcause
    · exact exec_rampTimeout hr hd
    · exact exec_offTimeout hr hd
    · exact (exec_dpgFall hr hsettled hpin).trans (congrArg Host.Outcome.next (State.takePowerFall_loses (s := b) hd))
  have hstill : (b.faultDomain x cause).engineMove x.domain = none := by
    refine State.engineMove_faulted ?_ ?_
    · rw [State.faultDomain_doms, set_get_self]; rfl
    · rw [State.faultDomain_rec (s := b) hs]
  exact ⟨b.faultDomain x cause, by rw [hx, State.settleEngine_still hstill], State.faultDomain_leaves (s := b) hs cause⟩

end Sys2Proof.Machine


namespace Sys2Proof.Machine

/-! ### The release rule (R144 to R146, R148) -/

section
variable {s : State} {e : Domain} {m : Module}

/-- What the release rule writes about a module in FAULT: its record, and its two notices where it leaves (R144, R145). -/
def State.releasing (s : State) (e : Domain) (m : Module) : EngineWrite :=
  { s.kept e m with
    mod := releasedRecord s m
    ct := if (releasedRecord s m).state = .off then [.level m 0 (s.modAt m).gen] else []
    dr := if (releasedRecord s m).state = .off then [.state m { state := .off, armed := false, woken := false }]
      else [] }

theorem State.releaseModule_eq_write (hf : (s.modAt m).state = .fault) :
    s.releaseModule e m = s.write e m (s.releasing e m) := by
  have hkeeps (c : ModCause) (hc : releasedRecord s m = { s.modAt m with cause := some c }) :
      s.onMod m (fun r => { r with cause := some c }) = s.write e m (s.releasing e m) := by
    have hstays : (releasedRecord s m).state ≠ .off := by rw [hc]; exact hf ▸ nofun
    rw [s.onMod_eq_write e m, State.releasing, if_neg hstays, if_neg hstays, hc]
    rfl
  unfold State.releaseModule State.releaseOutcome
  by_cases hd : s.domState (s.engineOf m) = .fault
  · rw [if_pos (show s.domState s.engines.dir[m].domain = .fault from hd)]
    exact hkeeps .domain (if_pos hd)
  · rw [if_neg (show ¬s.domState s.engines.dir[m].domain = .fault from hd)]
    by_cases hc : (supplierChain s.engines.dir 32 m).any (fun u => decide ((s.modAt u).state = .fault)) = true
    · rw [if_pos hc]
      exact hkeeps .supplier ((if_neg hd).trans (if_pos hc))
    · have hleaves : releasedRecord s m =
          { s.modAt m with state := .off, armed := false, woken := false, cause := none } :=
        (if_neg hd).trans (if_neg hc)
      rw [if_neg hc]
      dsimp only
      rw [s.onMod_eq_write e m, State.write_noticeCt, State.write_noticeDr, State.releasing, hleaves]
      rfl

/-- What the release rule leaves, as the statements say it (R144, R145). -/
theorem releaseApplied_releaseModule (hf : (s.modAt m).state = .fault) :
    ReleaseApplied s (s.releaseModule e m) e m := by
  obtain ⟨honly, htime, hsame, -, hmod, hlinks⟩ := State.leaves_of_write (State.releaseModule_eq_write (e := e) hf) rfl
  refine ⟨hmod, hsame, ?_, honly, htime, hlinks.trans ?_⟩
  · rw [State.releaseModule_eq_write hf]
    exact vector_set_self ..
  · unfold State.releasing
    split
    · rfl
    · rw [modifyAt_append_nil, modifyAt_append_nil]

theorem exec_moduleClear {rest : List CtPosting} (hr : Running s) (h : s.links.ctToEngine[e] = .moduleClear m :: rest) :
    exec (.moduleClear e) s = .next
      ((if (s.modAt m).state = .fault ∧ ((s.modAt m).cause = some .ackTimeout ∨ (s.modAt m).cause = some .readyLost) then
          (s.dropCtPosting e).releaseModule e m
        else s.dropCtPosting e).settleEngine e) := by
  change Host.Outcome.next (s.awake _) = _
  rw [State.awake_running _ hr]
  simp only [(State.ctPosting_of_head h).1]
  rfl

theorem exec_supplierClearNotice {rest : List DrPosting} (hr : Running s)
    (h : s.links.drToEngine[e] = .supplierClear m :: rest) :
    exec (.supplierClearNotice e) s = .next
      ((if (s.engineDir m).present = true ∧ (s.engineDir m).domain = e ∧ (s.modAt m).state = .fault ∧
            (s.modAt m).cause = some .supplier then
          (s.dropDrPosting e).releaseModule e m
        else s.dropDrPosting e).settleEngine e) := by
  change Host.Outcome.next (s.awake _) = _
  rw [State.awake_running _ hr]
  simp only [(State.drPosting_of_head h).1]
  rfl

end

/-! ### A domain clear (R111, R150) -/

/-- The supplier chain of a module lies below it, where every record's supplier does (R58). -/
theorem lt_of_mem_supplierChain {dir : Vector DirRecord 32} (hdir : ∀ k : Module, supplierBelow k dir[k]) {fuel : Nat}
    {m k : Module} (h : k ∈ supplierChain dir fuel m) : k < m := by
  induction fuel generalizing m with
  | zero => cases h
  | succ n ih =>
    rw [supplierChain] at h
    cases hu : dir[m].supplier with
    | none => rw [hu] at h; cases h
    | some u =>
      rw [hu] at h
      have hbelow : u < m := hdir m u hu
      rcases List.mem_cons.1 h with rfl | h
      · exact hbelow
      · exact (ih h).trans hbelow

/-- Module `m` is present in domain `x`, and in FAULT with it (R110). -/
abbrev State.heldBy (s : State) (x : SwDom) (m : Module) : Prop :=
  (s.engineDir m).present = true ∧ (s.engineDir m).domain = x.domain ∧ (s.modAt m).state = .fault ∧
    (s.modAt m).cause = some .domain

/-- A module of the supplier chain of `m` is in FAULT in `s` (R144). -/
def State.chainFaulted (s : State) (m : Module) : Bool :=
  (supplierChain s.engines.dir 32 m).any fun k => decide ((s.modAt k).state = .fault)

/-- What a domain clear writes about a module, if it is held by its domain (R150). -/
def State.releasingHeld (x : SwDom) (s : State) (m : Module) : EngineWrite :=
  if s.heldBy x m then s.releasing x.domain m else s.kept x.domain m

/-- The same, with `chain` for whether the supplier chain has a FAULT left, and the domain not in FAULT. -/
def State.releasedHeld (x : SwDom) (s : State) (chain : Bool) (m : Module) : EngineWrite :=
  if s.heldBy x m then
    if chain then { s.kept x.domain m with mod := { s.modAt m with cause := some .supplier } }
    else
      { s.kept x.domain m with
        mod := { s.modAt m with state := .off, armed := false, woken := false, cause := none }
        ct := [.level m 0 (s.modAt m).gen]
        dr := [.state m { state := .off, armed := false, woken := false }] }
  else s.kept x.domain m

section
variable {s : State} {x : SwDom}

theorem State.releaseDomainModules_eq (s : State) (x : SwDom) :
    s.releaseDomainModules x = State.writeEach x.domain (State.releasingHeld x) allModules s := by
  refine congrArg (fun f => allModules.foldl f s) (funext fun u => funext fun m => ?_)
  unfold State.releasingHeld
  split
  · rename_i h
    obtain ⟨-, -, hf, -⟩ := h
    exact State.releaseModule_eq_write hf
  · exact (State.write_kept ..).symm

theorem State.releasingHeld_eng (s : State) (m : Module) :
    (s.releasingHeld x m).eng = s.engines.recs[x.domain] := by
  unfold State.releasingHeld
  split <;> rfl

theorem State.releasingHeld_eq {m : Module} (hd : s.engines.doms[x].state ≠ .fault) :
    s.releasingHeld x m = s.releasedHeld x (s.chainFaulted m) m := by
  unfold State.releasingHeld State.releasedHeld
  split
  · rename_i h
    obtain ⟨-, hdomain, hf, -⟩ := h
    have hnf : s.domState (s.engineOf m) ≠ .fault := by
      rw [State.engineOf, hdomain, State.domState_switched]
      exact hd
    have hrecord : releasedRecord s m = if s.chainFaulted m then { s.modAt m with cause := some .supplier }
        else { s.modAt m with state := .off, armed := false, woken := false, cause := none } := if_neg hnf
    unfold State.releasing
    rw [hrecord]
    split
    · simp only [hf, reduceCtorEq, if_false]
      rfl
    · rfl
  · rfl

/-- A domain clear leaves what every engine holds. -/
theorem State.releaseEach_recs (l : List Module) (s : State) :
    (State.writeEach x.domain (State.releasingHeld x) l s).engines.recs = s.engines.recs := by
  refine State.writeEach_keeps _ _ (fun u => u.engines.recs = s.engines.recs) (fun u m hu => ?_) l rfl
  rw [← hu, State.write, State.releasingHeld_eng]
  exact vector_set_self ..

/-- A module's turn in a domain clear comes when those of its supplier chain have had theirs, so what is written about it
follows from the states that the clear ends with (R150). -/
theorem State.releasingHeld_inTurn (hd : s.engines.doms[x].state ≠ .fault)
    (hdir : ∀ k : Module, supplierBelow k s.engines.dir[k]) {before after : List Module} {m : Module}
    (hl : (before ++ m :: after).Pairwise (· < ·)) :
    (State.writeEach x.domain (State.releasingHeld x) before s).releasingHeld x m =
      s.releasedHeld x ((State.writeEach x.domain (State.releasingHeld x) (before ++ m :: after) s).chainFaulted m) m := by
  obtain ⟨-, hlater, hbefore⟩ := List.pairwise_append.1 hl
  have hm : m ∉ before := fun hm => lt_irrefl m (hbefore m hm m (List.mem_cons_self ..))
  rw [State.writeEach_append]
  generalize hv : State.writeEach x.domain (State.releasingHeld x) before s = v
  obtain ⟨hvdir, hvdoms⟩ := State.writeEach_records x.domain (State.releasingHeld x) before s
  have hvmod := State.writeEach_modAt_ne x.domain (State.releasingHeld x) hm s
  have hvrecs := State.releaseEach_recs (x := x) before s
  rw [hv] at hvdir hvdoms hvmod hvrecs
  obtain ⟨hudir, -⟩ := State.writeEach_records x.domain (State.releasingHeld x) (m :: after) v
  have hchain : (State.writeEach x.domain (State.releasingHeld x) (m :: after) v).chainFaulted m = v.chainFaulted m := by
    unfold State.chainFaulted
    rw [hudir, Bool.eq_iff_iff, List.any_eq_true, List.any_eq_true]
    refine exists_congr fun k => and_congr_right fun hk => ?_
    rw [hvdir] at hk
    have hkm := lt_of_mem_supplierChain hdir hk
    have hkl : k ∉ m :: after := fun hmem => by
      rcases List.mem_cons.1 hmem with rfl | hmem
      · exact lt_irrefl k hkm
      · exact lt_asymm hkm ((List.pairwise_cons.1 hlater).1 k hmem)
    rw [State.writeEach_modAt_ne _ _ hkl]
  have hvengine : v.engineDir m = s.engineDir m := by rw [State.engineDir, hvdir]; rfl
  rw [hchain, State.releasingHeld_eq (by rw [hvdoms]; exact hd)]
  unfold State.releasedHeld State.heldBy State.kept
  rw [hvengine, hvmod, hvrecs]

theorem State.releasedHeld_of_not {m : Module} (h : ¬s.heldBy x m) (chain : Bool) :
    s.releasedHeld x chain m = s.kept x.domain m := if_neg h

theorem State.releasedHeld_stays {m : Module} (h : s.heldBy x m) :
    s.releasedHeld x true m = { s.kept x.domain m with mod := { s.modAt m with cause := some .supplier } } := if_pos h

theorem State.releasedHeld_leaves {m : Module} (h : s.heldBy x m) :
    s.releasedHeld x false m =
      { s.kept x.domain m with
        mod := { s.modAt m with state := .off, armed := false, woken := false, cause := none }
        ct := [.level m 0 (s.modAt m).gen]
        dr := [.state m { state := .off, armed := false, woken := false }] } := if_pos h

/-- The modules that a domain clear meets in FAULT and leaves OFF are those it sends the two notices of (R145, R150). -/
theorem State.releasedHeld_notices {u : State} {m : Module} {chain : Bool}
    (hm : u.modAt m = (s.releasedHeld x chain m).mod) :
    let leaves := decide ((s.modAt m).state = .fault) && decide ((u.modAt m).state = .off)
    (s.releasedHeld x chain m).ct = (if leaves then [.level m 0 (s.modAt m).gen] else []) ∧
      (s.releasedHeld x chain m).dr =
        (if leaves then [.state m { state := .off, armed := false, woken := false }] else []) ∧
      (s.releasedHeld x chain m).alerts = [] := by
  rw [hm]
  by_cases hheld : s.heldBy x m
  · obtain ⟨-, -, hf, -⟩ := id hheld
    cases chain with
    | true => rw [State.releasedHeld_stays hheld]; simp [hf, State.kept]
    | false => rw [State.releasedHeld_leaves hheld]; simp [hf, State.kept]
  · rw [State.releasedHeld_of_not hheld]
    by_cases hf : (s.modAt m).state = .fault <;> simp [hf, State.kept]

/-- What a domain clear leaves of a domain that is not in FAULT any more (R144, R145, R150). -/
theorem State.releaseDomainModules_leaves (hd : s.engines.doms[x].state ≠ .fault)
    (hdir : ∀ k : Module, supplierBelow k s.engines.dir[k]) :
    let u := s.releaseDomainModules x
    let leaving := allModules.filter fun k =>
      decide ((s.modAt k).state = .fault) && decide ((u.modAt k).state = .off)
    OnlyEngines s u ∧ u.timebase = s.timebase ∧ u.engines.dir = s.engines.dir ∧ u.engines.recs = s.engines.recs ∧
      u.engines.doms = s.engines.doms ∧ (∀ m : Module, ¬s.heldBy x m → u.modAt m = s.modAt m) ∧
      (∀ m : Module, s.heldBy x m → u.modAt m =
        if u.chainFaulted m then { s.modAt m with cause := some .supplier }
        else { s.modAt m with state := .off, armed := false, woken := false, cause := none }) ∧
      u.links = { s.links with
        toCt := modifyAt s.links.toCt x.domain (· ++ leaving.map fun k => .level k 0 (s.modAt k).gen)
        toDr := modifyAt s.links.toDr x.domain
          (· ++ leaving.map fun k => .state k { state := .off, armed := false, woken := false }) } := by
  intro u leaving
  have hu : u = State.writeEach x.domain (State.releasingHeld x) allModules s := s.releaseDomainModules_eq x
  obtain ⟨hmods, hlinks⟩ := State.writeEach_due x.domain (State.releasingHeld x) allModules_nodup (s := s)
    (fun m => s.releasedHeld x (u.chainFaulted m) m) fun before m after hl => by
      have hturn := State.releasingHeld_inTurn hd hdir (before := before) (m := m) (after := after)
        (hl ▸ allModules_ascending)
      rw [← hl] at hturn
      rw [hturn, hu]
  obtain ⟨honly, htime⟩ := State.writeEach_onlyEngines x.domain (State.releasingHeld x) allModules s
  obtain ⟨hudir, hudoms⟩ := State.writeEach_records x.domain (State.releasingHeld x) allModules s
  have hrecs := State.releaseEach_recs (x := x) allModules s
  rw [← hu] at hmods hlinks honly htime hudir hudoms hrecs
  have hmod (m : Module) : u.modAt m = (s.releasedHeld x (u.chainFaulted m) m).mod := hmods m (mem_allModules m)
  refine ⟨honly, htime, hudir, hrecs, hudoms, fun m hm => ?_, fun m hm => ?_, hlinks.trans ?_⟩
  · rw [hmod, State.releasedHeld_of_not hm]
    rfl
  · rw [hmod]
    cases u.chainFaulted m with
    | true => rw [State.releasedHeld_stays hm]; rfl
    | false => rw [State.releasedHeld_leaves hm]; rfl
  · rw [List.map_eq_flatMap, List.map_eq_flatMap, flatMap_filter, flatMap_filter]
    have hnotices (m : Module) := State.releasedHeld_notices (hmod m)
    simp only [forall_and] at hnotices
    obtain ⟨hct, hdr, halerts⟩ := hnotices
    have hnone := List.flatMap_eq_nil_iff.2 fun m (_ : m ∈ allModules) => halerts m
    simp only [hct, hdr, hnone, List.append_nil]

/-- DOMAIN CLEAR on a domain in FAULT makes it OFF, and then lets its modules through the release rule (R111, R150). -/
theorem exec_domainClear {rest : List CtPosting} (hr : Running s)
    (h : s.links.ctToEngine[x.domain] = .domainClear x :: rest) :
    exec (.domainClear x) s = .next
      (if s.engines.doms[x].state = .fault then
        (((s.dropCtPosting x.domain).onDom x fun r => { r with state := .off, cause := none }).releaseDomainModules
          x).settleEngine x.domain
      else s.dropCtPosting x.domain) := by
  change Host.Outcome.next (s.awake _) = _
  rw [State.awake_running _ hr]
  simp only [(State.ctPosting_of_head h).1]
  rfl

end

/-- Settles O47: each clear is the release rule's write, or none, and a domain clear is one such write a module, in an
order in which the suppliers of a module come before it. -/
theorem clearsApplyTheReleaseRule : Obligations.ClearsApplyTheReleaseRule := by
  unfold Obligations.ClearsApplyTheReleaseRule
  refine ⟨fun s e m rest hr h => ?_, fun s e m rest hr h => ?_, fun s x rest hr h hf ho => ?_,
    fun s x rest hr h hf => ?_⟩
  · intro b
    have hx := exec_moduleClear hr h
    rw [(State.ctPosting_of_head h).2] at hx
    split
    · rename_i hc
      obtain ⟨hfault, -⟩ := id hc
      rw [if_pos hc] at hx
      exact ⟨_, hx, releaseApplied_releaseModule (s := b) hfault⟩
    · rename_i hc
      rw [if_neg hc] at hx
      exact hx
  · intro b
    have hx := exec_supplierClearNotice hr h
    rw [(State.drPosting_of_head h).2] at hx
    split
    · rename_i hc
      obtain ⟨-, -, hfault, -⟩ := id hc
      rw [if_pos hc] at hx
      exact ⟨_, hx, releaseApplied_releaseModule (s := b) hfault⟩
    · rename_i hc
      rw [if_neg hc] at hx
      exact hx
  · let b : State :=
      ({ s with links := { s.links with ctToEngine := s.links.ctToEngine.set x.domain rest } } : State).onDom x fun r =>
        { r with state := .off, cause := none }
    have hx := exec_domainClear hr h
    rw [if_pos hf, (State.ctPosting_of_head h).2] at hx
    obtain ⟨hcopies, -, -⟩ := ho
    have hbelow (k : Module) : supplierBelow k b.engines.dir[k] := let ⟨_, _, hengines⟩ := hcopies k; hengines
    have hdom : b.engines.doms[x] = { s.engines.doms[x] with state := .off, cause := none } := modifyAt_get_self ..
    obtain ⟨honly, htime, hdir, hrecs, hdoms, hfree, hheld, hlinks⟩ :=
      State.releaseDomainModules_leaves (s := b) (x := x) (by rw [hdom]; exact nofun) hbelow
    refine ⟨b.releaseDomainModules x, hx, honly, htime, hdir, hrecs, by rw [hdoms]; exact hdom, fun y hy => ?_,
      fun m => ⟨hfree m, fun hm => (hheld m hm).trans ?_, hlinks⟩⟩
    · rw [hdoms]
      exact modifyAt_get_ne _ _ hy
    · rw [State.chainFaulted, hdir]
      rfl
  · have hx := exec_domainClear hr h
    rw [if_neg hf, (State.ctPosting_of_head h).2] at hx
    exact hx

end Sys2Proof.Machine


namespace Sys2Proof.Machine

/-! ### Need postings, and a domain that leaves ON (R100, R103, R105 to R107) -/

section
variable {s : State} {x : SwDom}

/-- A need posting sets the engine's need field, and returns a domain in LINGER with need to ON (R100, R105). -/
theorem exec_needPosting {b : Bool} {rest : List DrPosting} (hr : Running s)
    (h : s.links.drToEngine[x.domain] = .need b :: rest) :
    exec (.needPosting x) s = .next
      (((s.dropDrPosting x.domain).onDom x fun r =>
        if b = true ∧ r.state = .linger then { r with need := b, state := .on, lingerCount := none }
        else { r with need := b }).settleEngine x.domain) := by
  change Host.Outcome.next (s.awake _) = _
  rw [State.awake_running _ hr]
  simp only [(State.drPosting_of_head h).1]

/-- When a domain falls idle (R103). -/
theorem State.idleDue_iff : s.idleDue x = true ↔
    s.engines.doms[x].state = .on ∧ s.engines.doms[x].need = false ∧ s.inFlight x.domain = none ∧
      ∀ m : Module, (s.engineDir m).present = true → s.engineOf m = x.domain →
        (s.modAt m).state = .off ∨ (s.modAt m).state = .fault := by
  simp only [State.idleDue, Bool.and_eq_true, decide_eq_true_eq, Bool.not_eq_true', Option.isNone_iff_eq_none, and_assoc,
    List.all_eq_true, mem_allModules, true_imp_iff, Bool.or_eq_true, Bool.and_eq_false_imp, decide_eq_false_iff_not,
    or_iff_not_imp_left, Classical.not_imp, not_not, and_imp]
  rfl

/-- An idle engine whose domain falls idle, with nothing eligible, has the domain leave ON (R103). -/
theorem State.engineMove_leavesOn (hidle : s.engines.recs[x.domain].work = .idle) (hon : s.engines.doms[x].state = .on)
    (hneed : s.engines.doms[x].need = false)
    (hq : ∀ en ∈ s.engines.recs[x.domain].queue, s.eligible x.domain en = false)
    (hout : ∀ m : Module, (s.engineDir m).present = true → s.engineOf m = x.domain →
      (s.modAt m).state = .off ∨ (s.modAt m).state = .fault) :
    s.engineMove x.domain = some (s.leaveOn x) := by
  have hramp : s.rampUpDue x = false := by rw [State.rampUpDue, hon]; rfl
  have hfind : s.engines.recs[x.domain].queue.find? (s.eligible x.domain) = none :=
    List.find?_eq_none.2 fun en hen => Bool.eq_false_iff.1 (hq en hen)
  have hflight : s.inFlight x.domain = none := by rw [State.inFlight, hidle]
  have hdue : s.idleDue x = true := State.idleDue_iff.2 ⟨hon, hneed, hflight, hout⟩
  rw [State.engineMove, if_neg (not_not.2 hidle), switchedOf_domain, Option.any_some, hramp, if_neg Bool.false_ne_true,
    hfind]
  exact if_pos hdue

/-- Where an idle domain goes from ON: to LINGER, or at linger 0 into RAMP_DOWN, or by DPG to OFF at its begin (R103,
R106, R107). -/
theorem State.leaveOn_eq (s : State) (x : SwDom) :
    let r := s.engines.doms[x]
    let g := s.engines.recs[x.domain]
    let down : DomRec := { r with state := .rampDown, dsw := false, isoReleased := false, lingerCount := none }
    s.leaveOn x = s.writeDom x
      (if r.linger ≠ 0 then { r with state := .linger, lingerCount := some r.linger }
       else if s.pins.dpg[x] = true then down else { down with state := .off })
      (if r.linger ≠ 0 then g else if s.pins.dpg[x] = true then g.ramping r.offTimeout else g.rested) := by
  intro r g down
  unfold State.leaveOn
  by_cases hl : r.linger = 0
  · rw [if_pos hl, State.beginRampDown_eq, if_neg (not_not.2 hl), if_neg (not_not.2 hl)]
    split <;> rfl
  · rw [if_neg hl, if_pos hl, if_pos hl, State.onDom_eq_writeDom]

/-! ### Edges of DPG (R102, R107, R109) -/

/-- A rise of DPG with no edge of it waiting is taken with its pin changed (R45, R102). -/
theorem exec_dpgRise (hr : Running s) (hs : Settled s (.dpg x)) (hpin : s.pins.dpg[x] = false) :
    exec (.dpgRise x) s = .next ((afterInput s (.dpgRise x)).takePowerRise x) :=
  congrArg Host.Outcome.next (State.edge_taken (g := { pin := .dpg x, up := true }) hr hs (by
    rw [show s.pins.level (.dpg x) = s.pins.dpg[x] from rfl, hpin]; exact Bool.false_ne_true))

/-- A rise with no fall waiting behind it completes RAMP_UP (R102). -/
theorem State.takePowerRise_completes (hd : s.engines.doms[x].state = .rampUp)
    (hfall : { pin := .dpg x, up := false } ∉ s.pins.edges) :
    s.takePowerRise x = (s.completeRampUp x).settleEngine x.domain :=
  if_pos ⟨hd, decide_eq_false hfall⟩

/-- A rise in any other state is ignored (R102, R107, R109). -/
theorem State.takePowerRise_ignored (hd : s.engines.doms[x].state ≠ .rampUp) : s.takePowerRise x = s :=
  if_neg fun h => hd h.1

/-- A fall completes RAMP_DOWN (R107). -/
theorem State.takePowerFall_completes (hd : s.engines.doms[x].state = .rampDown) :
    s.takePowerFall x = (s.completeRampDown x).settleEngine x.domain := by
  unfold State.takePowerFall
  rw [hd]

/-- A fall in OFF, RAMP_UP and FAULT is ignored (R102, R107, R109). -/
theorem State.takePowerFall_ignored
    (hd : s.engines.doms[x].state = .off ∨ s.engines.doms[x].state = .rampUp ∨ s.engines.doms[x].state = .fault) :
    s.takePowerFall x = s := by
  unfold State.takePowerFall
  rcases hd with hd | hd | hd <;> rw [hd]

end

/-! ### Edges of DPG that wait (R45, R102) -/

/-- The elements that pass a test, erased one after the other, leave those that do not. -/
theorem foldl_erase_filter {α : Type} [DecidableEq α] (p : α → Bool) (l : List α) :
    (l.filter p).foldl List.erase l = l.filter fun a => !p a := by
  have hcons (a : α) (q : List α) (hq : ∀ b ∈ q, b ≠ a) (r : List α) :
      q.foldl List.erase (a :: r) = a :: q.foldl List.erase r := by
    induction q generalizing r with
    | nil => rfl
    | cons b q ih =>
      obtain ⟨hb, hq⟩ := List.forall_mem_cons.1 hq
      rw [List.foldl_cons, List.erase_cons_tail (by simpa using hb.symm), ih hq]
      rfl
  induction l with
  | nil => rfl
  | cons a l ih =>
    cases ha : p a with
    | true => simp [ha, ih]
    | false =>
      rw [List.filter_cons_of_neg (by simp [ha]), List.filter_cons_of_pos (by simp [ha]), hcons, ih]
      intro b hb hba
      rw [List.mem_filter, hba, ha] at hb
      exact absurd hb.2 Bool.false_ne_true

/-- The state with other edges waiting. -/
def State.edgesLeft (s : State) (l : List Edge) : State := { s with pins := { s.pins with edges := l } }

section
variable {s : State} {x : SwDom}

/-- A DPG that is driven has its new level, and where that is a change its edge waits last (R45). -/
theorem State.drive_dpg (hr : Running s) (up : Bool) :
    ∃ l : List Edge, s.drive { pin := .dpg x, up := up } =
        { s with pins := { s.pins with dpg := s.pins.dpg.set x up, edges := l } } ∧
      l.filter (fun g => decide (g.pin = .dpg x)) = s.pins.edges.filter (fun g => decide (g.pin = .dpg x)) ++
        (if s.pins.dpg[x] = up then [] else [{ pin := .dpg x, up := up }]) ∧
      l.filter (fun g => decide (g.pin ≠ .dpg x)) = s.pins.edges.filter fun g => decide (g.pin ≠ .dpg x) := by
  by_cases hl : s.pins.dpg[x] = up
  · refine ⟨s.pins.edges, ?_, by rw [if_pos hl, List.append_nil], rfl⟩
    rw [State.drive_level (g := { pin := .dpg x, up := up }) hl, ← hl, vector_set_self]
  · refine ⟨s.pins.edges ++ [{ pin := .dpg x, up := up }], ?_, ?_, ?_⟩
    · exact State.drive_changes (g := { pin := .dpg x, up := up }) hr.1 hl
    · rw [if_neg hl, List.filter_append]
      simp
    · rw [List.filter_append]
      simp

variable (hd : s.engines.doms[x].state = .rampUp)
include hd

/-- A fall of DPG that waited is ignored in RAMP_UP (R102). -/
theorem State.takeWaiting_fall :
    s.takeWaiting { pin := .dpg x, up := false } = s.edgesLeft (s.pins.edges.erase { pin := .dpg x, up := false }) :=
  State.takePowerFall_ignored (s := s.edgesLeft _) (.inr (.inl hd))

/-- A rise of DPG and the fall behind it are both ignored in RAMP_UP (R102). -/
theorem State.takeWaiting_pulse (h : { pin := .dpg x, up := false } ∈ s.pins.edges) :
    (s.takeWaiting { pin := .dpg x, up := true }).takeWaiting { pin := .dpg x, up := false } =
      s.edgesLeft ((s.pins.edges.erase { pin := .dpg x, up := true }).erase { pin := .dpg x, up := false }) := by
  have hrise : s.takeWaiting { pin := .dpg x, up := true } =
      s.edgesLeft (s.pins.edges.erase { pin := .dpg x, up := true }) :=
    State.takePowerRise_withdrawn (s := s.edgesLeft _) ((List.mem_erase_of_ne (by simp)).2 h)
  rw [hrise]
  exact State.takeWaiting_fall (s := s.edgesLeft _) hd

/-- A rise of DPG with no fall waiting behind it completes RAMP_UP (R102). -/
theorem State.takeWaiting_rise
    (h : { pin := .dpg x, up := false } ∉ s.pins.edges.erase { pin := .dpg x, up := true }) :
    s.takeWaiting { pin := .dpg x, up := true } =
      ((s.edgesLeft (s.pins.edges.erase { pin := .dpg x, up := true })).completeRampUp x).settleEngine x.domain :=
  State.takePowerRise_completes (s := s.edgesLeft _) hd h

variable (hr : Running s)
include hr

/-- With a rise and then a fall waiting, RAMP_UP goes on (R102). -/
theorem State.takeEdges_pulse (h : s.pins.edges.filter (fun g => decide (g.pin = .dpg x)) =
      [{ pin := .dpg x, up := true }, { pin := .dpg x, up := false }]) :
    s.takeEdges (.dpg x) = s.edgesLeft (s.pins.edges.filter fun g => decide (g.pin ≠ .dpg x)) := by
  have herase := foldl_erase_filter (fun g : Edge => decide (g.pin = .dpg x)) s.pins.edges
  have hfall : { pin := .dpg x, up := false } ∈ s.pins.edges :=
    List.mem_of_mem_filter (p := fun g : Edge => decide (g.pin = .dpg x)) (by rw [h]; simp)
  rw [h] at herase
  rw [State.takeEdges, State.awake_running _ hr, h]
  simp only [decide_not, ← herase]
  exact State.takeWaiting_pulse hd hfall

/-- With a last rise waiting that no fall comes behind, RAMP_UP completes (R102). -/
theorem State.takeEdges_rise (h : s.pins.edges.filter (fun g => decide (g.pin = .dpg x)) =
        [{ pin := .dpg x, up := true }] ∨
      s.pins.edges.filter (fun g => decide (g.pin = .dpg x)) =
        [{ pin := .dpg x, up := true }, { pin := .dpg x, up := false }, { pin := .dpg x, up := true }]) :
    s.takeEdges (.dpg x) =
      ((s.edgesLeft (s.pins.edges.filter fun g => decide (g.pin ≠ .dpg x))).completeRampUp x).settleEngine
        x.domain := by
  have herase := foldl_erase_filter (fun g : Edge => decide (g.pin = .dpg x)) s.pins.edges
  have hgone : { pin := .dpg x, up := false } ∉ s.pins.edges.filter fun g => !decide (g.pin = .dpg x) := by simp
  rw [State.takeEdges, State.awake_running _ hr]
  simp only [decide_not]
  rcases h with h | h
  · rw [h] at herase ⊢
    rw [← herase] at hgone ⊢
    exact State.takeWaiting_rise hd hgone
  · have hfall : { pin := .dpg x, up := false } ∈ s.pins.edges :=
      List.mem_of_mem_filter (p := fun g : Edge => decide (g.pin = .dpg x)) (by rw [h]; simp)
    rw [h] at herase ⊢
    rw [← herase] at hgone ⊢
    rw [List.foldl_cons, List.foldl_cons, State.takeWaiting_pulse hd hfall]
    exact State.takeWaiting_rise (s := s.edgesLeft _) hd hgone

end

/-- DPG stands at `level`, and no edge of it waits any more. -/
def State.dpgTaken (s : State) (x : SwDom) (level : Bool) : State :=
  { s with pins := { s.pins with
      dpg := s.pins.dpg.set x level
      edges := s.pins.edges.filter fun g => decide (g.pin ≠ .dpg x) } }

section
variable {s : State} {x : SwDom} (hr : Running s) (hd : s.engines.doms[x].state = .rampUp)
include hr hd

/-- DPG_FALL in RAMP_UP, where with its own edge a rise and then a fall wait: RAMP_UP goes on (R102). -/
theorem exec_dpgFall_waiting (h : s.pins.edges.filter (fun g => decide (g.pin = .dpg x)) ++
      (if s.pins.dpg[x] = false then [] else [{ pin := .dpg x, up := false }]) =
        [{ pin := .dpg x, up := true }, { pin := .dpg x, up := false }]) :
    exec (.dpgFall x) s = .next (s.dpgTaken x false) := by
  obtain ⟨l, hdrive, hpin, hothers⟩ := s.drive_dpg (x := x) hr false
  rw [h] at hpin
  have htaken := State.takeEdges_pulse
    (s := { s with pins := { s.pins with dpg := s.pins.dpg.set x false, edges := l } }) hd hr hpin
  change Host.Outcome.next ((s.drive _).takeEdges _) = _
  rw [hdrive, htaken, State.dpgTaken, ← hothers]
  rfl

/-- DPG_RISE in RAMP_UP, where with its own edge the last that waits is a rise: RAMP_UP completes (R102). -/
theorem exec_dpgRise_waiting (h : s.pins.edges.filter (fun g => decide (g.pin = .dpg x)) ++
        (if s.pins.dpg[x] = true then [] else [{ pin := .dpg x, up := true }]) = [{ pin := .dpg x, up := true }] ∨
      s.pins.edges.filter (fun g => decide (g.pin = .dpg x)) ++
        (if s.pins.dpg[x] = true then [] else [{ pin := .dpg x, up := true }]) =
          [{ pin := .dpg x, up := true }, { pin := .dpg x, up := false }, { pin := .dpg x, up := true }]) :
    exec (.dpgRise x) s = .next (((s.dpgTaken x true).completeRampUp x).settleEngine x.domain) := by
  obtain ⟨l, hdrive, hpin, hothers⟩ := s.drive_dpg (x := x) hr true
  rw [← hpin] at h
  have htaken := State.takeEdges_rise
    (s := { s with pins := { s.pins with dpg := s.pins.dpg.set x true, edges := l } }) hd hr h
  change Host.Outcome.next ((s.drive _).takeEdges _) = _
  rw [hdrive, htaken, State.dpgTaken, ← hothers]
  rfl

end

/-- Settles O49: a need posting and the moves of a ramp and of an idle domain are one write each, and an edge of DPG, taken
at once or waiting, completes the ramp that its level ends. -/
theorem needAndPowerGoodMoveTheDomain : Obligations.NeedAndPowerGoodMoveTheDomain := by
  unfold Obligations.NeedAndPowerGoodMoveTheDomain
  refine ⟨fun s x b rest hr h => ?_, fun s x en hidle hoff hneed hen hrestart hdpg => ?_,
    fun s x hidle hon hneed hq hout => ?_, fun s x hr hs hpin => ?_, fun s x waiting hr hd hwaiting hedges => ?_,
    fun s x h => State.takePowerRise_withdrawn h, fun s x hr hs hpin => ⟨fun hd => ?_, fun hd => ?_⟩⟩
  · rw [exec_needPosting hr h, (State.drPosting_of_head h).2]
    rfl
  · rw [State.engineMove_ramp hidle hoff hneed hen hrestart, State.beginRampUp_eq, if_pos hdpg]
    rfl
  · rw [State.engineMove_leavesOn hidle hon hneed hq hout, State.leaveOn_eq]
    rfl
  · intro b r
    have hx := exec_dpgRise hr hs hpin
    split
    · rename_i hd
      have hfall : { pin := .dpg x, up := false } ∉ b.pins.edges := fun h => hs _ h rfl
      exact hx.trans (congrArg Host.Outcome.next (State.takePowerRise_completes (s := b) hd hfall))
    · rename_i hd
      exact hx.trans (congrArg Host.Outcome.next (State.takePowerRise_ignored (s := b) hd))
  · intro taken on
    obtain ⟨rfl, hlevel⟩ | ⟨rfl, hlevel⟩ := hwaiting
    · exact ⟨exec_dpgFall_waiting hr hd (by rw [hedges, hlevel]; rfl),
        exec_dpgRise_waiting hr hd (.inl (by rw [hedges, hlevel]; rfl))⟩
    · exact ⟨exec_dpgFall_waiting hr hd (by rw [hedges, hlevel]; rfl),
        exec_dpgRise_waiting hr hd (.inr (by rw [hedges, hlevel]; rfl))⟩
  · exact (exec_dpgFall hr hs hpin).trans (congrArg Host.Outcome.next
      (State.takePowerFall_completes (s := afterInput s (.dpgFall x)) hd))
  · exact (exec_dpgFall hr hs hpin).trans (congrArg Host.Outcome.next
      (State.takePowerFall_ignored (s := afterInput s (.dpgFall x)) hd))

end Sys2Proof.Machine


namespace Sys2Proof.Machine

/-! ### QUERY DOMAIN (R97, R114, Table 10-6) -/

theorem domainByte2_eq (st : DomState) (powerGood : Bool) (cause : Option DomCause) (need keepOn : Bool) :
    domainByte2 st powerGood cause need keepOn = BitVec.ofNat 8
      (128 * keepOn.toNat + 64 * need.toNat + 16 * (domCauseCode cause).toNat + 8 * powerGood.toNat +
        (domStateCode st).toNat) := by
  have h : ∀ (a b d : Bool) (c : BitVec 2) (x : BitVec 3),
      BitVec.ofBool a ++ BitVec.ofBool b ++ c ++ BitVec.ofBool d ++ x =
        BitVec.ofNat 8 (128 * a.toNat + 64 * b.toNat + 16 * c.toNat + 8 * d.toNat + x.toNat) := by decide
  exact h ..

/-- QUERY DOMAIN changes nothing (R114). -/
theorem queryDomainBody_unchanged (p : Port) (r : Request) (s : State) :
    queryDomainBody p r s = (s, (queryDomainBody p r s).2) := by
  unfold queryDomainBody; split <;> rfl

/-- The report on D0, which has no record at an engine: ON, power-good high, no fault, no linger, no keep-on (R97). -/
theorem State.domainReport_zero (s : State) :
    s.domainReport 0 =
      { status := .ok, b2 := BitVec.ofNat 8 (64 * s.dr.need[(0 : Domain)].toNat + 8 + 2)
        b3 := byteOf (s.countModules 0 fun r => decide (r.state = .held ∨ r.state = .paused ∨ r.state = .running))
        b4 := byteOf (s.countModules 0 fun r => decide (r.state = .fault)), b5 := 0, b6 := 0 } := by
  have hbyte : domainByte2 .on true none s.dr.need[(0 : Domain)] false =
      BitVec.ofNat 8 (64 * s.dr.need[(0 : Domain)].toNat + 8 + 2) := by
    rw [domainByte2_eq]
    cases s.dr.need[(0 : Domain)] <;> rfl
  rw [← hbyte]
  rfl

/-- The report on a switched domain (R114). -/
theorem State.domainReport_domain (s : State) (x : SwDom) :
    let q := s.engines.doms[x]
    s.domainReport x.domain =
      { status := .ok
        b2 := BitVec.ofNat 8
          (128 * s.dr.keepOn[x].toNat + 64 * s.dr.need[x.domain].toNat + 16 * (domCauseCode q.cause).toNat +
            8 * s.pins.dpg[x].toNat + (domStateCode q.state).toNat)
        b3 := byteOf
          (s.countModules x.domain fun r => decide (r.state = .held ∨ r.state = .paused ∨ r.state = .running))
        b4 := byteOf (s.countModules x.domain fun r => decide (r.state = .fault))
        b5 := byteOf (q.lingerCount.getD 0), b6 := byteOf (x.val + 1) } := by
  have hkept : s.dr.keptOn x.domain = s.dr.keepOn[x] := by rw [Dr.keptOn, switchedOf_domain]
  unfold State.domainReport
  rw [domainByte2_eq, State.domState_switched, switchedOf_domain, hkept]
  rfl

/-- Settles O21: the body leaves the state, and the bytes it answers are the fields at their bits, those of D0 by its own
report. -/
theorem queryDomainReportsEveryBlock : Obligations.QueryDomainReportsEveryBlock := by
  unfold Obligations.QueryDomainReportsEveryBlock
  intro s p r hs
  obtain ⟨hct, hlinks, hblocks, hans⟩ := served_unchanged hs (accepts := (· == codeQueryDomain)) rfl
    (queryDomainBody_unchanged p r (s.takeRequest p))
  refine ⟨_, rfl, hct, hlinks, hblocks, fun hbad => ?_, fun hzero => ?_, fun x hx => ?_⟩
  · simp only [queryDomainBody, domainOf_eq_none.2 hbad] at hans
    exact hans
  · have hd : domainOf (r.byte 2) = some 0 := domainOf_eq_some.2 hzero
    simp only [queryDomainBody, hd, State.domainReport_zero] at hans
    exact hans
  · have hd : domainOf (r.byte 2) = some x.domain := domainOf_eq_some.2 hx
    simp only [queryDomainBody, hd, State.domainReport_domain] at hans
    exact hans

end Sys2Proof.Machine


namespace Sys2Proof.Machine

/-! ### Events at the resolver that change wake requests and idle counts only (R117, R119, R123) -/

/-- Domain need turns on keep-on, the directory and the levels (R68). -/
theorem Dr.needs_congr {a b : Dr} (hkeepOn : a.keepOn = b.keepOn) (hdir : a.dir = b.dir) (heff : a.eff = b.eff)
    (x : Domain) : a.needs x = b.needs x := by
  simp only [Dr.needs, Dr.keptOn, hkeepOn, hdir, heff]

section
variable {d : Dr} {w : Vector Bool 32} (ho : d.Ordered) (heff : ∀ m : Module, d.eff[m] = d.dueLevel m)
  (hneed : ∀ x : Domain, d.need[x] = d.needs x)
include ho heff hneed

theorem Dr.reworked_need_same : (d.reworked w).need = d.need :=
  Vector.ext fun i hi => by
    refine (d.reworked_need w ⟨i, hi⟩).trans ?_
    rw [Dr.needs_congr (d.reworked_keepOn w) (d.reworked_dir w) (Dr.reworked_eff_same ho heff)]
    exact (hneed _).symm

variable (hwatch : ∀ m : Module, d.watched[m] = d.watches d.eff m)
  (hpostedNeed : ∀ x : SwDom, d.postedNeed[x] = d.need[x.domain])
include hwatch hpostedNeed

/-- Where levels, watches and domain needs agree already, the end of an event changes wake needs and targets only (R65,
R120). -/
theorem Dr.reworked_wake_only :
    d.reworked w = { d with wakeNeed := (d.reworked w).wakeNeed, posted := (d.reworked w).posted } := by
  have hpostedNeed_same : (d.reworked w).postedNeed = d.postedNeed := Vector.ext fun i hi => by
    have h := d.reworked_postedNeed w ⟨i, hi⟩
    rw [Dr.reworked_need_same ho heff hneed, ← hpostedNeed] at h
    exact h
  have hsame (x : Dr) : x.dir = d.dir → x.claimed = d.claimed → x.views = d.views → x.eff = d.eff →
      x.watched = d.watched → x.wakeReq = d.wakeReq → x.idle = d.idle → x.need = d.need →
      x.postedNeed = d.postedNeed → x.keepOn = d.keepOn → x = { d with wakeNeed := x.wakeNeed, posted := x.posted } := by
    cases x
    rintro rfl rfl rfl rfl rfl rfl rfl rfl rfl rfl
    rfl
  exact hsame _ (d.reworked_dir w) (d.reworked_claimed w) (d.reworked_views w) (Dr.reworked_eff_same ho heff)
    (Dr.reworked_watched_same ho heff hwatch) (Dr.reworked_wakeReq_same ho heff hwatch)
    (Dr.reworked_idle_same ho heff hwatch) (Dr.reworked_need_same ho heff hneed) hpostedNeed_same (d.reworked_keepOn w)

end

/-- Where every module in demand has its target posted, no engine is owed one (R65). -/
theorem owedTargets_eq_nil {d : Dr} {posted : Vector Target 32}
    (h : ∀ m : Module, d.demands m = true → posted[m] = d.target m) (e : Domain) : owedTargets d posted e = [] := by
  refine List.map_eq_nil_iff.2 (List.filter_eq_nil_iff.2 fun m _ hm => ?_)
  simp only [Bool.and_eq_true, decide_eq_true_eq] at hm
  obtain ⟨⟨hdemands, -⟩, hne⟩ := hm
  exact hne (h m hdemands).symm

/-- Where every domain's need is posted, no engine is owed it (R68). -/
theorem owedNeed_eq_nil {d : Dr} {postedNeed : Vector Bool 3} (h : ∀ x : SwDom, postedNeed[x] = d.need[x.domain])
    (e : Domain) : owedNeed d postedNeed e = [] := by
  unfold owedNeed
  cases hx : switchedOf e with
  | none => rfl
  | some x =>
    obtain rfl := switchedOf_eq_some.1 hx
    exact if_pos (h x).symm

/-- Where all demand agrees already, the end of an event changes and posts nothing (R62, R65, R68). -/
theorem State.finishDr_of_right {s : State} (ho : s.dr.Ordered) (hd : DemandRight s) : s.finishDr [] = s := by
  have hdr : (s.finishDr []).dr = s.dr := by
    rw [State.finishDr_reworked, Dr.reworked_wake_only ho hd.level hd.2.1 hd.watch hd.2.2,
      Dr.reworked_wakeNeed_same ho hd.level hd.watch hd.wake,
      Dr.reworked_posted_same ho hd.level hd.watch hd.wake fun m => hd.target m]
  have hposts : (s.finishDr []).links.drToEngine = s.links.drToEngine := Vector.ext fun i hi => by
    refine (s.finishDr_posts [] ⟨i, hi⟩).trans ?_
    rw [hdr, owedTargets_eq_nil (fun m => hd.target m), owedNeed_eq_nil hd.2.2, List.append_nil, List.append_nil]
    exact List.append_nil _
  rw [State.finishDr_eq, ← State.finishDr_dr s [], hdr, hposts]

/-- An event that writes wake requests and idle counts, with all demand in agreement before it, changes wake needs and
targets besides, and posts the targets (R65, R66, R120). -/
theorem wakeEvent_reworks {s u : State} {req : Vector Bool 32} {idle : Vector (Option Nat) 32}
    (hu : u.dr = { s.dr with wakeReq := req, idle := idle }) (hl : u.links = s.links)
    (ho : SupplierOrder s) (hd : DemandRight s) :
    let t := u.finishDr []
    t.dr = { s.dr with wakeReq := req, idle := idle, wakeNeed := t.dr.wakeNeed, posted := t.dr.posted } ∧
      t.links = { s.links with drToEngine := t.links.drToEngine } ∧ DemandPosted s t s.dr.posted fun _ => [] := by
  intro t
  refine ⟨?_, ?_, demandPosted_finishDr (by rw [hl]) (by rw [hu]) (by rw [hu]) fun _ => rfl⟩
  · have hdr : t.dr = ({ s.dr with wakeReq := req, idle := idle } : Dr).reworked u.pins.mwake := by
      rw [← hu]
      exact State.finishDr_reworked ..
    rw [hdr]
    exact Dr.reworked_wake_only (d := { s.dr with wakeReq := req, idle := idle }) ho.ordered hd.level hd.2.1 hd.watch
      hd.2.2
  · rw [← hl]
    exact State.finishDr_links ..

/-- A module at level 2 with a wake request has a wake need (R120). -/
theorem DemandRight.wakeNeed_of_request {s : State} (h : DemandRight s) {m : Module} (heff : s.dr.eff[m] = 2)
    (hreq : s.dr.wakeReq[m] = true) : s.dr.wakeNeed[m] = true := by
  rw [h.wake, Dr.dueWake, heff, hreq]
  rfl

end Sys2Proof.Machine


namespace Sys2Proof.Machine

/-! ### Edges of MWAKE (R117 to R120) -/

/-- The board brings MWAKE of one module to a level. -/
def State.withWakePin (s : State) (m : Module) (up : Bool) : State :=
  s.onPins fun p => { p with mwake := p.mwake.set m up }

/-- A rise or fall of MWAKE with no edge of it waiting is taken with its pin changed (R45, R117, R119). -/
theorem State.mwakeEdge_taken {s : State} {m : Module} {up : Bool} (hr : Running s) (hs : Settled s (.mwake m))
    (hpin : s.pins.mwake[m] ≠ up) :
    (s.drive { pin := .mwake m, up := up }).takeEdges (.mwake m) =
      (s.withWakePin m up).takeEdge { pin := .mwake m, up := up } :=
  State.edge_taken (g := { pin := .mwake m, up := up }) hr hs hpin

theorem exec_mwakeRise {s : State} {m : Module} (hr : Running s) (hs : Settled s (.mwake m))
    (hpin : s.pins.mwake[m] = false) : exec (.mwakeRise m) s = .next ((s.withWakePin m true).takeWakeRise m) :=
  congrArg Host.Outcome.next (State.mwakeEdge_taken hr hs (by rw [hpin]; exact Bool.false_ne_true))

theorem exec_mwakeFall {s : State} {m : Module} (hr : Running s) (hs : Settled s (.mwake m))
    (hpin : s.pins.mwake[m] = true) : exec (.mwakeFall m) s = .next ((s.withWakePin m false).takeWakeFall m) :=
  congrArg Host.Outcome.next (State.mwakeEdge_taken hr hs (by rw [hpin]; exact Bool.false_ne_true.symm))

section
variable (s : State) (m : Module)

/-- The module is present, uses wake, and is shown at rest without ARMED: a rise of its MWAKE strays (R118). -/
abbrev State.strays : Prop :=
  s.dr.dir[m].present = true ∧ s.dr.dir[m].wakeUsed = true ∧
    (s.dr.views[m].state = .off ∨ s.dr.views[m].state = .held ∨
      (s.dr.views[m].state = .paused ∧ s.dr.views[m].armed = false))

/-- A rise on a watched module sets its wake request and discards its idle count (R117). -/
theorem State.takeWakeRise_watched (hw : s.dr.watched[m] = true) :
    s.takeWakeRise m =
      (s.onDr fun d => { d with wakeReq := d.wakeReq.set m true, idle := d.idle.set m none }).finishDr [] :=
  if_pos hw

/-- A rise on a module that is not watched is a stray wake or ignored (R118). -/
theorem State.takeWakeRise_unwatched (hw : s.dr.watched[m] = false) :
    s.takeWakeRise m = if s.strays m then s.alert s.dr.dir[m].owner (.module m) .strayWake else s := by
  unfold State.takeWakeRise
  simp only [hw, Bool.false_eq_true, if_false, Bool.and_eq_true, decide_eq_true_eq, and_assoc]

/-- A fall on a watched module with a wake request clears it and loads the idle count (R119). -/
theorem State.takeWakeFall_marked (hw : s.dr.watched[m] = true) (hq : s.dr.wakeReq[m] = true) :
    s.takeWakeFall m =
      (s.onDr fun d =>
        { d with wakeReq := d.wakeReq.set m false
                 idle := d.idle.set m (some (s.modAt m).idleWindow) }).finishDr [] :=
  if_pos (Bool.and_eq_true_iff.2 ⟨hw, hq⟩)

/-- Any other fall is ignored (R119). -/
theorem State.takeWakeFall_ignored (h : s.dr.watched[m] = false ∨ s.dr.wakeReq[m] = false) : s.takeWakeFall m = s :=
  if_neg (by rw [Bool.and_eq_false_iff.2 h]; exact Bool.false_ne_true)

/-- What an edge of MWAKE leaves at every other block. -/
abbrev WakeEdgeOnly (s t : State) : Prop := OnlyResolver s t ∧ t.ticks = s.ticks ∧ t.pins = s.pins

theorem wakeEdgeOnly_refl : WakeEdgeOnly s s := ⟨⟨rfl, rfl, rfl, ⟨rfl, rfl⟩, rfl, rfl⟩, rfl, rfl⟩

theorem wakeEdgeOnly_atResolver (g : Dr → Dr) : WakeEdgeOnly s ((s.onDr g).finishDr []) :=
  ⟨onlyResolver_finishDr ⟨rfl, rfl, rfl, ⟨rfl, rfl⟩, rfl, rfl⟩ _, State.finishDr_ticks .., State.finishDr_pins ..⟩

theorem State.takeWakeRise_only : WakeEdgeOnly s (s.takeWakeRise m) := by
  cases hw : s.dr.watched[m] with
  | true =>
    rw [s.takeWakeRise_watched m hw]
    exact wakeEdgeOnly_atResolver ..
  | false =>
    rw [s.takeWakeRise_unwatched m hw]
    split
    · exact wakeEdgeOnly_refl s
    · exact wakeEdgeOnly_refl s

theorem State.takeWakeFall_only : WakeEdgeOnly s (s.takeWakeFall m) := by
  unfold State.takeWakeFall
  split
  · exact wakeEdgeOnly_atResolver ..
  · exact wakeEdgeOnly_refl s

end

/-! ### A fall leaves every wake need (R119, R120) -/

/-- The resolver once a wake request gives way to a running idle count (R119). -/
def Dr.withIdleCount (d : Dr) (m : Module) (n : Nat) : Dr :=
  { d with wakeReq := d.wakeReq.set m false, idle := d.idle.set m (some n) }

/-- A running idle count keeps up the wake need that the wake request gave (R120). -/
theorem Dr.withIdleCount_dueWake {d : Dr} {m : Module} (hq : d.wakeReq[m] = true) (n : Nat) (k : Module) :
    (d.withIdleCount m n).dueWake k = d.dueWake k := by
  have hkeeps : ((d.wakeReq.set m false)[k] || ((d.idle.set m (some n))[k]).isSome) =
      (d.wakeReq[k] || (d.idle[k]).isSome) := by
    by_cases hk : k = m
    · subst hk
      rw [set_get_self, set_get_self, hq]
      rfl
    · rw [set_get_ne _ _ hk, set_get_ne _ _ hk]
  exact congrArg (fun b => decide (d.eff[k] = 2) &&
    (b || (dependentsIn d.dir k).any fun u => d.views[u].woken || d.wakeNeed[u])) hkeeps

/-- With the wake request of a watched module replaced by an idle count, all demand agrees as before (R119, R120). -/
theorem demandRight_withIdleCount {s : State} {m : Module} (hd : DemandRight s) (hw : s.dr.watched[m] = true)
    (hq : s.dr.wakeReq[m] = true) (n : Nat) : DemandRight (s.onDr fun d => d.withIdleCount m n) := by
  obtain ⟨hmodules, hneed, hposted⟩ := hd
  refine ⟨fun k => ?_, hneed, hposted⟩
  obtain ⟨heff, hwatch, hwake, htarget, hkept⟩ := hmodules k
  refine ⟨heff, hwatch, hwake.trans (Dr.withIdleCount_dueWake hq n k).symm, htarget, fun hk => ?_⟩
  have hne : k ≠ m := fun h => by rw [h] at hk; cases hk.symm.trans hw
  obtain ⟨hreq, hidle⟩ := hkept hk
  exact ⟨(set_get_ne _ _ hne).trans hreq, (set_get_ne _ _ hne).trans hidle⟩

theorem State.takeWakeFall_loads {s : State} {m : Module} (hw : s.dr.watched[m] = true) (hq : s.dr.wakeReq[m] = true)
    (ho : SupplierOrder s) (hd : DemandRight s) :
    s.takeWakeFall m = s.onDr fun d => d.withIdleCount m (s.modAt m).idleWindow :=
  (s.takeWakeFall_marked m hw hq).trans
    (State.finishDr_of_right (s := s.onDr fun d => d.withIdleCount m _) ho.ordered (demandRight_withIdleCount hd hw hq _))

/-! ### Every edge of MWAKE -/

/-- A rise on a watched module, with all demand in agreement before it (R117, R120). -/
theorem takeWakeRise_reworks {s : State} {m : Module} (hw : s.dr.watched[m] = true) (ho : SupplierOrder s)
    (hd : DemandRight s) :
    let t := (s.withWakePin m true).takeWakeRise m
    t.dr.wakeReq = s.dr.wakeReq.set m true ∧ t.dr.idle = s.dr.idle.set m none ∧ t.dr.eff = s.dr.eff ∧
      t.dr.watched = s.dr.watched ∧ DemandRight t ∧ (DemandPosted s t s.dr.posted fun _ => []) ∧
      t.links = { s.links with drToEngine := t.links.drToEngine } ∧ (t.dr.eff[m] = 2 → t.dr.wakeNeed[m] = true) := by
  intro t
  have hright : DemandRight t := (demandSound_takeWakeRise (s := s.withWakePin m true) ⟨ho, hd⟩ m).2
  have ht : t = _ := (s.withWakePin m true).takeWakeRise_watched m hw
  clear_value t
  obtain ⟨hdr, hlinks, hposted⟩ := wakeEvent_reworks (s := s)
    (u := (s.withWakePin m true).onDr fun d => { d with wakeReq := d.wakeReq.set m true, idle := d.idle.set m none })
    (req := s.dr.wakeReq.set m true) (idle := s.dr.idle.set m none) rfl rfl ho hd
  rw [← ht] at hdr hlinks hposted
  have hreq : t.dr.wakeReq = s.dr.wakeReq.set m true := congrArg Dr.wakeReq hdr
  refine ⟨hreq, congrArg Dr.idle hdr, by rw [hdr], by rw [hdr], hright, hposted, hlinks, fun heff => ?_⟩
  exact hright.wakeNeed_of_request heff (by rw [hreq]; exact set_get_self ..)

/-- Settles O41: a watched rise is one event with everything worked out at its end, a watched fall leaves all demand as it
agreed, and an edge on a module that is not watched is a stray wake or nothing. -/
theorem wakeEdgesAreTakenByTheWatch : Obligations.WakeEdgesAreTakenByTheWatch := by
  unfold Obligations.WakeEdgesAreTakenByTheWatch
  refine ⟨fun s m hr hs hpin => ?_, fun s m hr hs hpin => ?_⟩
  · obtain ⟨honly, hticks, hpins⟩ := (s.withWakePin m true).takeWakeRise_only m
    refine ⟨_, exec_mwakeRise hr hs hpin, honly, hticks, hpins, takeWakeRise_reworks, fun hw => ?_⟩
    intro v stray
    rw [(s.withWakePin m true).takeWakeRise_unwatched m hw]
    by_cases hstray : (s.withWakePin m true).strays m
    · rw [if_pos hstray]
      exact ⟨rfl, fun _ => rfl, fun hn => absurd hstray hn⟩
    · rw [if_neg hstray]
      exact ⟨rfl, fun hp => absurd hp hstray, fun _ => rfl⟩
  · obtain ⟨honly, hticks, hpins⟩ := (s.withWakePin m false).takeWakeFall_only m
    refine ⟨_, exec_mwakeFall hr hs hpin, honly, hticks, hpins, fun hw hq ho hd => ?_, fun hignored => ?_⟩
    · rw [State.takeWakeFall_loads (s := s.withWakePin m false) hw hq ho hd]
      exact ⟨rfl, rfl⟩
    · rw [(s.withWakePin m false).takeWakeFall_ignored m hignored]
      exact ⟨rfl, rfl⟩

end Sys2Proof.Machine


namespace Sys2Proof.Machine

/-! ### The tick at the demand resolver (R123, R124) -/

/-- A running idle count falls by one, and one that stands at 1 stops (R123). -/
theorem lowerIdle_counts (i : Option Nat) :
    (i = none → lowerIdle i = none) ∧ (i = some 1 → lowerIdle i = none) ∧
      ∀ n ∈ i, 2 ≤ n → lowerIdle i = some (n - 1) := by
  refine ⟨?_, ?_, ?_⟩
  · rintro rfl
    rfl
  · rintro rfl
    rfl
  · rintro n rfl hn
    exact if_neg (by omega)

section
variable {s : State} (hr : Running s) (htick : s.ticks.dr = true)
include hr htick

theorem exec_idleCountTick : exec .idleCountTick s = .next s.takeDrTick := by
  change Host.Outcome.next (s.awake _) = _
  rw [State.awake_running _ hr, if_pos htick]

/-- The running out of a count that stands at 1 is the tick itself (R123; log 8). -/
theorem exec_idleCountRunsOut {m : Module} (hm : s.dr.idle[m] = some 1) :
    exec (.idleCountRunsOut m) s = .next s.takeDrTick := by
  change Host.Outcome.next (s.awake _) = _
  rw [State.awake_running _ hr, if_pos (Bool.and_eq_true_iff.2 ⟨htick, decide_eq_true hm⟩)]

end

/-- Every idle count lowered by one, or stopped (R123). -/
def Dr.idleLowered (d : Dr) : Vector (Option Nat) 32 := Vector.ofFn fun m => lowerIdle d.idle[m]

theorem Dr.idleLowered_get (d : Dr) (m : Module) : d.idleLowered[m] = lowerIdle d.idle[m] := by
  unfold Dr.idleLowered
  exact Vector.getElem_ofFn ..

/-- What the tick writes before the end of its event: it is taken, and the idle counts stand at new values (R123). -/
def State.drTickTaken (s : State) (idle : Vector (Option Nat) 32) : State :=
  (s.onTicks fun k => { k with dr := false }).onDr fun d => { d with idle := idle }

theorem State.takeDrTick_eq (s : State) : s.takeDrTick = (s.drTickTaken s.dr.idleLowered).finishDr [] := by
  simp only [State.takeDrTick, State.drTickTaken, State.onDr, State.onTicks, Dr.idleLowered]

theorem onlyResolver_drTickTaken (s : State) (idle : Vector (Option Nat) 32) :
    OnlyResolver s (s.drTickTaken idle) := ⟨rfl, rfl, rfl, ⟨rfl, rfl⟩, rfl, rfl⟩

/-- The tick changes the resolver and the streams to the engines, and is no longer waiting (R123). -/
theorem State.drTickTaken_only (s : State) (idle : Vector (Option Nat) 32) :
    let t := (s.drTickTaken idle).finishDr []
    OnlyResolver s t ∧ t.ticks = { s.ticks with dr := false } ∧ t.pins = s.pins :=
  ⟨onlyResolver_finishDr (onlyResolver_drTickTaken s idle) _, State.finishDr_ticks .., State.finishDr_pins ..⟩

/-- Settles O42: either command is the one tick, which lowers every idle count and ends with wake needs and targets worked
out and posted. -/
theorem theTickCountsEveryIdleWindow : Obligations.TheTickCountsEveryIdleWindow := by
  unfold Obligations.TheTickCountsEveryIdleWindow
  intro s i hr htick ho hd hi
  have hexec : exec i s = .next s.takeDrTick := by
    obtain rfl | ⟨m, rfl, hm⟩ := hi
    · exact exec_idleCountTick hr htick
    · exact exec_idleCountRunsOut hr htick hm
  have hright : DemandRight s.takeDrTick := (demandSound_takeDrTick ⟨ho, hd⟩).2
  have hlowered (m : Module) := s.dr.idleLowered_get m
  rw [State.takeDrTick_eq] at hexec hright
  generalize s.dr.idleLowered = idle at hexec hright hlowered
  obtain ⟨honly, hticks, hpins⟩ := s.drTickTaken_only idle
  obtain ⟨hdr, hlinks, hposted⟩ := wakeEvent_reworks (u := s.drTickTaken idle) rfl rfl ho hd
  have hidle : ((s.drTickTaken idle).finishDr []).dr.idle = idle := congrArg Dr.idle hdr
  refine ⟨_, hexec, honly, hticks, hpins, fun m => ?_, ?_, hlinks, hright, hposted⟩
  · rw [hidle, hlowered]
    exact lowerIdle_counts _
  · rw [hidle]
    exact hdr

end Sys2Proof.Machine


namespace Sys2Proof.Machine

/-! ### The checks of RESTART, as statements (R128, R129) -/

section
variable {s : State} {p : Port} {r : Request} {m : Module}

theorem State.refusesFaulted_iff :
    s.refusesFaulted m = true ↔ s.ct.views[m].fault = true ∨ s.domState s.ct.dir[m].domain = .fault := by
  rw [State.refusesFaulted, Bool.or_eq_true, decide_eq_true_iff]

theorem ModRec.up_iff {q : ModRec} :
    q.up = true ↔ q.state = .held ∨ q.state = .paused ∨ q.state = .running ∨ q.stepping = true := by
  rw [ModRec.up, Bool.or_eq_true, decide_eq_true_iff, or_assoc, or_assoc]

/-- A present dependent is up (R128 check 6). -/
theorem State.anyDependentUp_iff :
    ((dependentsIn s.ct.dir m).any fun k => (s.modAt k).up) = true ↔
      ∃ k : Module, s.ct.dir[k].present = true ∧ s.ct.dir[k].supplier = some m ∧
        ((s.modAt k).state = .held ∨ (s.modAt k).state = .paused ∨ (s.modAt k).state = .running ∨
          (s.modAt k).stepping = true) := by
  simp only [List.any_eq_true, mem_dependentsIn, ModRec.up_iff, and_assoc]

/-- The requester is not permitted just where it is neither the owner nor HP0 and another port holds a claim in the
module's list (R129). -/
theorem State.mayRestart_eq_false :
    s.mayRestart p m = false ↔
      p ≠ s.ct.dir[m].owner ∧ p ≠ 0 ∧ ∃ sl ∈ s.ct.lists[m], ∃ c ∈ s.ct.claimAt sl, c.holder ≠ p := by
  simp only [State.mayRestart, Bool.or_eq_false_iff, decide_eq_false_iff_not, List.all_eq_false, Option.all_eq_true,
    decide_eq_true_eq, not_forall, exists_prop, and_assoc, ne_eq, Option.mem_def]

/-! ### What RESTART does (R128, R130) -/

/-- The state once a restart of `m` is accepted for `p`: the mark set, the posting on its way to the engine (R130). -/
def State.restartAccepted (s : State) (p : Port) (m : Module) : State :=
  (s.onCt fun ct => { ct with restartMark := ct.restartMark.set m (some p) }).postEngine s.ct.dir[m].domain
    (.restart m p)

/-- The answer of an accepted restart: the recorded state and the generation (R130). -/
def State.restartAnswer (s : State) (m : Module) : Answer :=
  { status := .ok, b2 := byteOf m.val, b3 := (physStateCode (s.modAt m).state).setWidth 8, b4 := (s.modAt m).gen }

theorem restartBody_badOperand (h : 32 ≤ (r.byte 2).toNat) : restartBody p r s = (s, .refused .badArgument) := by
  simp only [restartBody, moduleOf_eq_none.2 h]

/-- RESTART of a module in range: the checks of R128 in their order, each in the words of the rule. -/
theorem restartBody_eq (hm : moduleOf (r.byte 2) = some m) :
    restartBody p r s =
      if s.ct.dir[m].present = false then (s, .refused .noModule)
      else if s.ct.views[m].fault = true ∨ s.domState s.ct.dir[m].domain = .fault then (s, .refused .faulted)
      else if s.ct.restartMark[m] ≠ none then (s, .refused .busy)
      else if (s.modAt m).state ≠ .paused ∧ (s.modAt m).state ≠ .running then (s, .refused .notRunning)
      else if ∃ k : Module, s.ct.dir[k].present = true ∧ s.ct.dir[k].supplier = some m ∧
          ((s.modAt k).state = .held ∨ (s.modAt k).state = .paused ∨ (s.modAt k).state = .running ∨
            (s.modAt k).stepping = true) then (s, .refused .dependents)
      else if p ≠ s.ct.dir[m].owner ∧ p ≠ 0 ∧ ∃ sl ∈ s.ct.lists[m], ∃ c ∈ s.ct.claimAt sl, c.holder ≠ p then
        (s, .refused .contested)
      else (s.restartAccepted p m, s.restartAnswer m) := by
  simp only [restartBody, hm, Bool.not_eq_true', State.refusesFaulted_iff, State.anyDependentUp_iff,
    State.mayRestart_eq_false, Option.isSome_iff_ne_none, decide_eq_false_iff_not, not_or, ne_eq]
  rfl

/-- The answer's bytes for a module recorded PAUSED or RUNNING (R130). -/
theorem State.restartAnswer_eq (hm : (r.byte 2).toNat = m.val)
    (hup : ¬((s.modAt m).state ≠ .paused ∧ (s.modAt m).state ≠ .running)) :
    s.restartAnswer m =
      { status := .ok, b2 := r.byte 2, b3 := if (s.modAt m).state = .paused then 2 else 3, b4 := (s.modAt m).gen } := by
  have hcode : (physStateCode (s.modAt m).state).setWidth 8 = if (s.modAt m).state = .paused then 2 else 3 := by
    cases hstate : (s.modAt m).state with
    | paused | running => rfl
    | off | held | fault => simp [hstate] at hup
  rw [State.restartAnswer, hcode, ← hm, byteOf_toNat]

/-- RESTART changes no block but the claim table. -/
theorem restartBody_sameBlocks (p : Port) (r : Request) (s : State) : SameBlocks s (restartBody p r s).1 := by
  cases hm : moduleOf (r.byte 2) with
  | none => rw [restartBody_badOperand (moduleOf_eq_none.1 hm)]; exact ⟨rfl, rfl, rfl, rfl, rfl, rfl, rfl⟩
  | some m => rw [restartBody_eq hm]; split_ifs <;> exact ⟨rfl, rfl, rfl, rfl, rfl, rfl, rfl⟩

theorem served_restart_sameBlocks (hs : Serving s p r codeRestart) :
    SameBlocks s (s.serve (· == codeRestart) restartBody) := by
  obtain ⟨hrun, hnext, hcode⟩ := hs
  rw [State.serve_accepted (accepts := (· == codeRestart)) hrun hnext (beq_iff_eq.2 hcode)]
  exact restartBody_sameBlocks p r (s.takeRequest p)

/-- An accepted restart sets the module's mark and no other, sends one posting, and is answered (R130). -/
theorem served_restartAccepted (hs : Serving s p r codeRestart)
    (hb : restartBody p r (s.takeRequest p) =
      ((s.takeRequest p).restartAccepted p m, (s.takeRequest p).restartAnswer m)) :
    let t := s.serve (· == codeRestart) restartBody
    t.ct.restartMark[m] = some p ∧ (∀ k : Module, k ≠ m → t.ct.restartMark[k] = s.ct.restartMark[k]) ∧
      t.ct = { s.ct with restartMark := t.ct.restartMark } ∧
      t.links = { s.links with
        ctToEngine := modifyAt s.links.ctToEngine s.ct.dir[m].domain (· ++ [.restart m p]) } ∧
      Answered s t p r (s.restartAnswer m) id := by
  intro t
  have ht : t = _ := serve_of_serving hs (accepts := (· == codeRestart)) rfl hb
  rw [ht]
  exact ⟨set_get_self .., fun k hk => set_get_ne _ _ hk, rfl, rfl, answered_of_taken rfl rfl⟩

/-- One check of a body: what follows where it fails, and what follows from the checks after it where it passes. -/
theorem ite_of_eq_ite {α : Type} {c A B : Prop} [Decidable c] {x a b : α} (hx : x = if c then a else b)
    (hfails : x = a → A) (hpasses : ¬c → x = b → B) : if c then A else B := by
  by_cases hc : c
  · rw [if_pos hc] at hx ⊢; exact hfails hx
  · rw [if_neg hc] at hx ⊢; exact hpasses hc hx

end

/-- Settles O32: the body's checks in their order, each refusal unchanged but for its answer, and the request that passes
them all marked and posted. -/
theorem restartIsCheckedThenPosted : Obligations.RestartIsCheckedThenPosted := by
  unfold Obligations.RestartIsCheckedThenPosted
  intro s p r hs
  refine ⟨_, rfl, served_restart_sameBlocks hs, ?_⟩
  intro refused
  have refuses {st : Status} (hb : restartBody p r (s.takeRequest p) = (s.takeRequest p, .refused st)) :
      refused st := by
    obtain ⟨hct, hlinks, -, hans⟩ := served_unchanged hs (accepts := (· == codeRestart)) rfl hb
    exact ⟨hct, hlinks, hans⟩
  refine ⟨fun hbad => refuses (restartBody_badOperand hbad), fun m hm => ?_⟩
  intro q d
  refine ite_of_eq_ite (restartBody_eq (s := s.takeRequest p) (moduleOf_eq_some.2 hm)) refuses fun _ hb =>
    ite_of_eq_ite hb refuses fun _ hb => ite_of_eq_ite hb refuses fun _ hb =>
    ite_of_eq_ite hb refuses fun hup hb => ite_of_eq_ite hb refuses fun _ hb =>
    ite_of_eq_ite hb refuses fun _ hb => ?_
  rw [← State.restartAnswer_eq hm hup]
  exact served_restartAccepted hs hb

end Sys2Proof.Machine


namespace Sys2Proof.Machine

/-! ### A request that hands something to an engine (R26, R66) -/

section
variable {s : State} {p : Port} {r : Request} {code : Byte} {accepts : Byte → Bool}
  {body : Port → Request → State → State × Answer}

/-- What a request that is refused, or handed over to an engine and no more, leaves of the state. -/
abbrev HandsOver (s u : State) : Prop := u = s ∨ ∃ (e : Domain) (n : CtPosting), u = s.postEngine e n

theorem served_handsOver (h : Serving s p r code) (ha : accepts code = true)
    (hb : HandsOver (s.takeRequest p) (body p r (s.takeRequest p)).1) :
    (s.serve accepts body).ct = s.ct ∧ SameBlocks s (s.serve accepts body) := by
  rw [serve_of_serving h ha rfl]
  obtain hu | ⟨e, n, hu⟩ := hb
  · rw [hu]; exact ⟨rfl, rfl, rfl, rfl, rfl, rfl, rfl, rfl⟩
  · rw [hu]; exact ⟨rfl, rfl, rfl, rfl, rfl, rfl, rfl, rfl⟩

theorem served_refused {st : Status} (h : Serving s p r code) (ha : accepts code = true)
    (hb : body p r (s.takeRequest p) = (s.takeRequest p, .refused st)) :
    (s.serve accepts body).links = s.links ∧ Answered s (s.serve accepts body) p r { status := st } id := by
  obtain ⟨-, hlinks, -, hans⟩ := served_unchanged h ha hb
  exact ⟨hlinks, hans⟩

theorem served_postEngine {e : Domain} {n : CtPosting} {a : Answer} (h : Serving s p r code) (ha : accepts code = true)
    (hb : body p r (s.takeRequest p) = ((s.takeRequest p).postEngine e n, a)) :
    (s.serve accepts body).links = { s.links with ctToEngine := modifyAt s.links.ctToEngine e (· ++ [n]) } ∧
      Answered s (s.serve accepts body) p r a id := by
  rw [serve_of_serving h ha hb]
  exact ⟨rfl, answered_of_taken rfl rfl⟩

end

/-! ### The release rule's outcome (R144) -/

/-- A fault that is released ends, or stays as the domain's or as a supplier's (R144). -/
theorem State.releaseOutcome_cases (s : State) (dir : Vector DirRecord 32) (m : Module) :
    s.releaseOutcome dir m = none ∨ s.releaseOutcome dir m = some .supplier ∨ s.releaseOutcome dir m = some .domain := by
  unfold State.releaseOutcome
  split_ifs
  · exact .inr (.inr rfl)
  · exact .inr (.inl rfl)
  · exact .inl rfl

/-- The codes of the state and the cause that the release rule leaves (R144, R147). -/
theorem State.releaseOutcome_codes (s : State) (dir : Vector DirRecord 32) (m : Module) :
    let after := s.releaseOutcome dir m
    (physStateCode (if after.isSome then .fault else .off)).setWidth 8 = (if after = none then 0 else 4 : Byte) ∧
      (modCauseCode after).setWidth 8 = (if after = none then 0 else if after = some .supplier then 3 else 4 : Byte) := by
  obtain h | h | h := s.releaseOutcome_cases dir m
  · rw [h]; exact ⟨rfl, rfl⟩
  · rw [h]; exact ⟨rfl, rfl⟩
  · rw [h]; exact ⟨rfl, rfl⟩

/-! ### CLEAR MODULE FAULT (R147) -/

section
variable {s : State} {p : Port} {r : Request} {m : Module}

theorem clearable_eq_false {q : ModRec} :
    clearable q = false ↔ q.state ≠ .fault ∨ (q.cause ≠ some .ackTimeout ∧ q.cause ≠ some .readyLost) := by
  simp only [clearable, Bool.and_eq_false_iff, Bool.or_eq_false_iff, decide_eq_false_iff_not, ne_eq]

/-- The code of a cause that CLEAR MODULE FAULT clears. -/
theorem modCauseCode_of_clearable {q : ModRec}
    (h : ¬(q.state ≠ .fault ∨ (q.cause ≠ some .ackTimeout ∧ q.cause ≠ some .readyLost))) :
    (modCauseCode q.cause).setWidth 8 = (if q.cause = some .ackTimeout then 1 else 2 : Byte) := by
  have hcause : q.cause = some .ackTimeout ∨ q.cause = some .readyLost := by tauto
  obtain h | h := hcause
  · rw [h]; rfl
  · rw [h]; rfl

/-- The answer of an accepted CLEAR MODULE FAULT: the prior cause, the release rule's outcome, the generation (R147). -/
def State.moduleClearAnswer (s : State) (m : Module) : Answer :=
  { status := .ok, b2 := byteOf m.val
    b3 := (modCauseCode (s.modAt m).cause).setWidth 8
    b4 := (physStateCode (if (s.releaseOutcome s.ct.dir m).isSome then .fault else .off)).setWidth 8
    b5 := (modCauseCode (s.releaseOutcome s.ct.dir m)).setWidth 8
    b6 := (s.modAt m).gen }

theorem clearModuleFaultBody_badOperand (h : 32 ≤ (r.byte 2).toNat) :
    clearModuleFaultBody p r s = (s, .refused .badArgument) := by
  simp only [clearModuleFaultBody, moduleOf_eq_none.2 h]

/-- CLEAR MODULE FAULT of a module in range: the checks of R147 in their order, each in the words of the rule. -/
theorem clearModuleFaultBody_eq (hm : moduleOf (r.byte 2) = some m) :
    clearModuleFaultBody p r s =
      if s.ct.dir[m].present = false then (s, .refused .noModule)
      else if p ≠ s.ct.dir[m].owner ∧ p ≠ 0 then (s, .refused .notPermitted)
      else if (s.modAt m).state ≠ .fault ∨ ((s.modAt m).cause ≠ some .ackTimeout ∧ (s.modAt m).cause ≠ some .readyLost)
      then (s, .refused .notFaulted)
      else (s.postEngine s.ct.dir[m].domain (.moduleClear m), s.moduleClearAnswer m) := by
  simp only [clearModuleFaultBody, hm, Bool.not_eq_true', clearable_eq_false, not_or, ne_eq]
  rfl

theorem clearModuleFaultBody_handsOver (p : Port) (r : Request) (s : State) :
    HandsOver s (clearModuleFaultBody p r s).1 := by
  cases hm : moduleOf (r.byte 2) with
  | none => rw [clearModuleFaultBody_badOperand (moduleOf_eq_none.1 hm)]; exact .inl rfl
  | some m =>
    rw [clearModuleFaultBody_eq hm]
    split_ifs
    · exact .inl rfl
    · exact .inl rfl
    · exact .inl rfl
    · exact .inr ⟨_, _, rfl⟩

/-- The bytes of that answer, in the words of R147. -/
theorem State.moduleClearAnswer_eq (hm : (r.byte 2).toNat = m.val)
    (hclear : ¬((s.modAt m).state ≠ .fault ∨
      ((s.modAt m).cause ≠ some .ackTimeout ∧ (s.modAt m).cause ≠ some .readyLost))) :
    let after := s.releaseOutcome s.ct.dir m
    s.moduleClearAnswer m =
      { status := .ok, b2 := r.byte 2
        b3 := if (s.modAt m).cause = some .ackTimeout then 1 else 2
        b4 := if after = none then 0 else 4
        b5 := if after = none then 0 else if after = some .supplier then 3 else 4
        b6 := (s.modAt m).gen } := by
  obtain ⟨hstate, hcause⟩ := s.releaseOutcome_codes s.ct.dir m
  rw [State.moduleClearAnswer, modCauseCode_of_clearable hclear, hstate, hcause, ← hm, byteOf_toNat]

end

/-! ### CLEAR DOMAIN FAULT (R149) -/

section
variable {s : State} {r : Request} {x : SwDom}

/-- The answer of an accepted CLEAR DOMAIN FAULT: the prior cause, and how many modules the domain holds in FAULT (R149). -/
def State.domainClearAnswer (s : State) (r : Request) (x : SwDom) : Answer :=
  { status := .ok, b2 := r.byte 2
    b3 := BitVec.ofNat 8 (domCauseCode s.engines.doms[x].cause).toNat
    b4 := byteOf (s.countModules x.domain fun q => decide (q.state = .fault ∧ q.cause = some .domain)) }

theorem clearDomainFaultBody_badOperand (h : 4 ≤ (r.byte 2).toNat) :
    clearDomainFaultBody r s = (s, .refused .badArgument) := by
  simp only [clearDomainFaultBody, domainOf_eq_none.2 h]

/-- D0 has no fault (R149). -/
theorem clearDomainFaultBody_d0 (h : (r.byte 2).toNat = 0) : clearDomainFaultBody r s = (s, .refused .notFaulted) := by
  have hd : domainOf (r.byte 2) = some 0 := domainOf_eq_some.2 h
  have hswitched : switchedOf 0 = none := rfl
  simp only [clearDomainFaultBody, hd, hswitched]

/-- CLEAR DOMAIN FAULT of a switched domain: the checks of R149 in their order. -/
theorem clearDomainFaultBody_eq (h : (r.byte 2).toNat = x.val + 1) :
    clearDomainFaultBody r s =
      if s.engines.doms[x].state ≠ .fault then (s, .refused .notFaulted)
      else if s.pins.dpg[x] = true then (s, .refused .powerPresent)
      else (s.postEngine x.domain (.domainClear x), s.domainClearAnswer r x) := by
  have hx : (r.byte 2).toNat = x.domain.val := h
  simp only [clearDomainFaultBody, domainOf_eq_some.2 hx, switchedOf_domain, State.domainClearAnswer,
    BitVec.ofNat_toNat]

theorem clearDomainFaultBody_handsOver (r : Request) (s : State) : HandsOver s (clearDomainFaultBody r s).1 := by
  unfold clearDomainFaultBody
  split
  · exact .inl rfl
  · split
    · exact .inl rfl
    · split_ifs
      · exact .inl rfl
      · exact .inl rfl
      · exact .inr ⟨_, _, rfl⟩

end

/-- Settles O33: each body's checks in their order, each refusal unchanged but for its answer, and the request that passes
them all posted to the engine. -/
theorem clearsAreCheckedThenHandedOver : Obligations.ClearsAreCheckedThenHandedOver := by
  unfold Obligations.ClearsAreCheckedThenHandedOver
  refine ⟨fun s p r hs => ?_, fun s r hs => ?_⟩
  · obtain ⟨hct, hblocks⟩ := served_handsOver hs (accepts := (· == codeClearModuleFault)) rfl
      (clearModuleFaultBody_handsOver p r (s.takeRequest p))
    refine ⟨_, rfl, hct, hblocks, ?_⟩
    intro refused
    have refuses {st : Status} (hb : clearModuleFaultBody p r (s.takeRequest p) = (s.takeRequest p, .refused st)) :
        refused st := served_refused hs rfl hb
    refine ⟨fun hbad => refuses (clearModuleFaultBody_badOperand hbad), fun m hm => ?_⟩
    intro q d after
    refine ite_of_eq_ite (clearModuleFaultBody_eq (s := s.takeRequest p) (moduleOf_eq_some.2 hm)) refuses fun _ hb =>
      ite_of_eq_ite hb refuses fun _ hb => ite_of_eq_ite hb refuses fun hclear hb => ?_
    rw [State.moduleClearAnswer_eq (s := s.takeRequest p) hm hclear] at hb
    exact served_postEngine hs rfl hb
  · obtain ⟨hct, hblocks⟩ := served_handsOver hs (accepts := (· == codeClearDomainFault)) rfl
      (body := controlOnly clearDomainFaultBody) (clearDomainFaultBody_handsOver r (s.takeRequest 0))
    refine ⟨_, rfl, hct, hblocks, ?_⟩
    intro refused
    have refuses {st : Status} (hb : clearDomainFaultBody r (s.takeRequest 0) = (s.takeRequest 0, .refused st)) :
        refused st := served_refused hs rfl (body := controlOnly clearDomainFaultBody) hb
    refine ⟨fun hbad => refuses (clearDomainFaultBody_badOperand hbad),
      fun hzero => refuses (clearDomainFaultBody_d0 hzero), fun x hx => ?_⟩
    refine ite_of_eq_ite (clearDomainFaultBody_eq (s := s.takeRequest 0) hx) refuses fun _ hb =>
      ite_of_eq_ite hb refuses fun _ hb => ?_
    exact served_postEngine hs rfl (body := controlOnly clearDomainFaultBody) hb

end Sys2Proof.Machine


namespace Sys2Proof.Machine


/-! ### One port controller changes -/

section
variable {s : State} {p : Port} {f g : PortRec → PortRec}

/-- A change of a controller is what it makes of the controller that stands there. -/
theorem State.onPort_congr (h : f s.ports[p] = g s.ports[p]) : s.onPort p f = s.onPort p g := by
  unfold State.onPort modifyAt
  rw [h]

theorem State.onPort_of_self (h : f s.ports[p] = s.ports[p]) : s.onPort p f = s := by
  rw [State.onPort_congr (g := id) h, State.onPort, modifyAt_id]

theorem State.onPort_onPort : (s.onPort p f).onPort p g = s.onPort p (g ∘ f) := by
  simp [State.onPort, modifyAt]

theorem State.onPort_self (s : State) (p : Port) (f : PortRec → PortRec) : (s.onPort p f).ports[p] = f s.ports[p] :=
  modifyAt_get_self ..

theorem State.onPort_other {q : Port} (h : q ≠ p) : (s.onPort p f).ports[q] = s.ports[q] := modifyAt_get_ne _ _ h

end

/-! ### The begin of a frame (R152, R154) -/

section
variable {s : State} {p : Port}

theorem exec_frameBegin_deselected (h : s.ports[p].wire = .deselected) :
    exec (.frameBegin p) s =
      .next (s.onPort p fun q => { q with wire := if s.inReset then .ignored else .frame s.ports[p].holder }) := by
  refine congrArg Host.Outcome.next (State.onPort_congr ?_)
  simp only [h]

theorem exec_frameBegin_selected (h : s.ports[p].wire ≠ .deselected) : exec (.frameBegin p) s = .next s := by
  refine congrArg Host.Outcome.next (State.onPort_of_self ?_)
  cases hw : s.ports[p].wire with
  | deselected => exact absurd hw h
  | frame copy => rfl
  | ignored => rfl

end

/-- Settles O5: the controller's wire is the one thing written, and a frame's bits are those of the copy. -/
theorem frameBeginCopiesTheHolder : Obligations.FrameBeginCopiesTheHolder := by
  unfold Obligations.FrameBeginCopiesTheHolder
  refine fun s p => ⟨fun hw => ?_, exec_frameBegin_selected⟩
  intro h bytes
  refine ⟨_, exec_frameBegin_deselected hw, ?_, fun hr => ?_, fun hr => ?_⟩
  · rw [State.onPort_self]
  · rw [State.onPort_self, hr]
    exact ⟨rfl, fun _ => rfl⟩
  · rw [State.onPort_self, hr]
    exact ⟨rfl, fun _ => rfl⟩

/-! ### The bytes of a frame (R152) -/

/-- Fewer than eight bits make no byte. -/
theorem completeBytes_short {l : List Bool} (h : l.length < 8) : completeBytes l = [] := by
  unfold completeBytes
  split
  · simp only [List.length_cons] at h
    omega
  · rfl

/-- A byte is put together from its bits. -/
theorem byteOfBits_getMsbD : ∀ b : Byte,
    byteOfBits (b.getMsbD 0) (b.getMsbD 1) (b.getMsbD 2) (b.getMsbD 3) (b.getMsbD 4) (b.getMsbD 5) (b.getMsbD 6)
      (b.getMsbD 7) = b := by
  decide

/-- The bits of a byte, most significant first, make that byte (R152). -/
theorem completeBytes_bits (b : Byte) (l : List Bool) :
    completeBytes (((List.range 8).map fun k => b.getMsbD k) ++ l) = b :: completeBytes l :=
  congrArg (· :: completeBytes l) (byteOfBits_getMsbD b)

theorem completeBytes_flatMap (bytes : List Byte) (extra : List Bool) (h : extra.length < 8) :
    completeBytes ((bytes.flatMap fun b => (List.range 8).map fun k => b.getMsbD k) ++ extra) = bytes := by
  induction bytes with
  | nil => exact completeBytes_short h
  | cons b rest ih => rw [List.flatMap_cons, List.append_assoc, completeBytes_bits, ih]

/-! ### The end of a frame (R153, R154, R157) -/

/-- A controller once WAITING is written for request `r` in its slot: both marks stay set (R153, R157). -/
def PortRec.waiting (q : PortRec) (r : Request) (changes : Bool) : PortRec :=
  { q with
    slot := some r
    holder := ({ status := .waiting } : Answer).bytes
      (echoByte r.sequence q.overrun q.frameMark changes (!q.alerts.isEmpty)) }

/-- A controller once a frame of these complete bytes is classified, the first matching case applying (R153). -/
def PortRec.classified (q : PortRec) (changes : Bool) (bytes : List Byte) : PortRec :=
  match bytes with
  | [] => q
  | code :: _ =>
    if code = codeNop then q
    else if bytes.length < frameLength code then { q with frameMark := true }
    else if q.slot.isSome then { q with overrun := true }
    else q.waiting (requestOf bytes) changes

/-- Classification writes the port's controller and nothing else. -/
theorem State.classify_eq (s : State) (p : Port) (bytes : List Byte) :
    s.classify p bytes = s.onPort p (·.classified (!s.ct.ports[p].changes.isEmpty) bytes) := by
  have only {f : PortRec → PortRec}
      (h : s.ports[p].classified (!s.ct.ports[p].changes.isEmpty) bytes = f s.ports[p]) :
      s.onPort p f = s.onPort p (·.classified (!s.ct.ports[p].changes.isEmpty) bytes) := State.onPort_congr h.symm
  cases bytes with
  | nil => exact (State.onPort_of_self rfl).symm
  | cons code rest =>
    unfold State.classify
    dsimp only
    split_ifs with hnop hshort hslot
    · exact (State.onPort_of_self (by rw [PortRec.classified, if_pos hnop])).symm
    · exact only (by rw [PortRec.classified, if_neg hnop, if_pos hshort])
    · exact only (by rw [PortRec.classified, if_neg hnop, if_neg hshort, if_pos hslot])
    · rw [State.writeWaiting, State.onPort_onPort]
      refine only ?_
      rw [PortRec.classified, if_neg hnop, if_neg hshort, if_neg hslot, Function.comp_apply, State.echoFor,
        State.onPort_self]
      rfl

/-- The frame length of every code leaves room for code and sequence (Table 10-2). -/
theorem two_le_frameLength (code : Byte) : 2 ≤ frameLength code := by
  have htable : ∀ x ∈ commandTable, 2 ≤ x.2 := by decide
  unfold frameLength
  cases h : commandTable.lookup code with
  | none => exact le_rfl
  | some n =>
    obtain ⟨before, after, hsplit, -⟩ := List.lookup_eq_some_iff.1 h
    exact htable (code, n) (by rw [hsplit]; simp)

/-- The request of a frame, by the bytes behind its code (R153). -/
theorem requestOf_cons (code : Byte) (rest : List Byte) :
    requestOf (code :: rest) =
      { code := code
        sequence := (rest.getD 0 0).setWidth 4
        operands := (rest.take (frameLength code - 1)).drop 1 } := by
  obtain ⟨n, hn⟩ := Nat.exists_eq_add_of_le' (two_le_frameLength code)
  simp [requestOf, hn]

theorem exec_frameEnd_ignored {s : State} {p : Port} (h : s.ports[p].wire = .ignored) (bits : List Bool) :
    exec (.frameEnd p bits) s = .next (s.onPort p fun q => { q with wire := .deselected }) := by
  refine congrArg Host.Outcome.next ?_
  simp only [h]

theorem exec_frameEnd_frame {s : State} {p : Port} {copy : AnswerBytes} (h : s.ports[p].wire = .frame copy)
    (bits : List Bool) :
    exec (.frameEnd p bits) s =
      .next (s.onPort p fun q =>
        { q with wire := .deselected }.classified (!s.ct.ports[p].changes.isEmpty) (completeBytes bits)) := by
  refine congrArg Host.Outcome.next ?_
  simp only [h]
  rw [State.classify_eq, State.onPort_onPort]
  rfl

/-- Settles O6: the bytes byte by byte, and the frame by what classification makes of its controller. -/
theorem frameEndClassifies : Obligations.FrameEndClassifies := by
  unfold Obligations.FrameEndClassifies
  refine ⟨completeBytes_flatMap, fun s p bits => ⟨fun hw => exec_frameEnd_ignored hw bits, fun copy hw => ?_⟩⟩
  refine ⟨_, exec_frameEnd_frame hw bits, rfl, fun q hq => State.onPort_other hq, ?_⟩
  intro old
  rw [State.onPort_self]
  cases completeBytes bits with
  | nil => rfl
  | cons code rest =>
    simp only [PortRec.classified, requestOf_cons]
    rfl

end Sys2Proof.Machine


namespace Sys2Proof.Machine

/-! ### The intake arbiter (R161) -/

/-- The arbiter's order is the order of the turns, and every port stands in it. -/
theorem servingOrder_turns : ∀ last : Port,
    ((servingOrder last).Pairwise fun p q => turn last p < turn last q) ∧ ∀ q : Port, q ∈ servingOrder last := by
  decide

/-- Once an earlier port has been served, a port is nearer its turn. -/
theorem turn_lt_of_served : ∀ last p q : Port, turn last p < turn last q → turn p q < turn last q := by decide

theorem turn_le (last q : Port) : turn last q ≤ 3 := Nat.le_of_lt_succ (Nat.mod_lt _ (by decide))

/-- A waiting request is seen by the arbiter. -/
theorem State.nextRequest_isSome {s : State} {q : Port} (h : s.ports[q].slot.isSome = true) :
    s.nextRequest.isSome = true :=
  List.findSome?_isSome_iff.2 ⟨q, (servingOrder_turns s.lastServed).2 q, by rw [Option.isSome_map]; exact h⟩

/-- Every other port with a request waiting comes after the one the arbiter takes. -/
theorem State.nextRequest_first {s : State} {p q : Port} {r : Request} (h : s.nextRequest = some (p, r)) (hq : q ≠ p)
    (hslot : s.ports[q].slot.isSome = true) : turn s.lastServed p < turn s.lastServed q := by
  obtain ⟨before, a, after, hsplit, ha, hnone⟩ := List.findSome?_eq_some_iff.1 h
  obtain ⟨r', -, hpair⟩ := Option.map_eq_some_iff.1 ha
  cases hpair
  obtain ⟨hturns, hmem⟩ := servingOrder_turns s.lastServed
  rw [hsplit] at hturns
  have hafter : q ∈ after := by
    have hall : q ∈ before ++ p :: after := hsplit ▸ hmem q
    rcases List.mem_append.1 hall with hbefore | hrest
    · rw [Option.map_eq_none_iff.1 (hnone q hbefore)] at hslot
      cases hslot
    · exact (List.mem_cons.1 hrest).resolve_left hq
  obtain ⟨-, hrest, -⟩ := List.pairwise_append.1 hturns
  obtain ⟨hlater, -⟩ := List.pairwise_cons.1 hrest
  exact hlater q hafter

/-- Settles O8: the arbiter's first occupied slot is the one of least turn, and serving it moves every other turn up. -/
theorem arbiterServesInTurn : Obligations.ArbiterServesInTurn := by
  unfold Obligations.ArbiterServesInTurn
  refine ⟨fun s q h => State.nextRequest_isSome h, fun s p r h => ⟨State.nextRequest_slot h, fun q hq hslot => ?_⟩⟩
  have hfirst := State.nextRequest_first h hq hslot
  exact ⟨hfirst, turn_lt_of_served _ _ _ hfirst, turn_le _ _⟩

/-! ### Codes that are refused (R158) -/

/-- A code for which Table 10-2 names no command. -/
def unnamed (n : Nat) : Prop := n = 0x06 ∨ n = 0x07 ∨ n = 0x0F ∨ (0x12 ≤ n ∧ n ≤ 0x1E) ∨ 0x29 ≤ n

theorem namesCommand_of_unnamed {code : Byte} (h : unnamed code.toNat) : namesCommand code = false := by
  have htable : ∀ x ∈ commandTable, ¬ unnamed x.1.toNat := by unfold unnamed; decide
  have hnop : ¬ unnamed codeNop.toNat := by unfold unnamed; decide
  have hlookup : commandTable.lookup code = none :=
    List.lookup_eq_none_iff.2 fun x hx => bne_iff_ne.2 fun he => htable x hx (he ▸ h)
  have hne : code ≠ codeNop := fun he => hnop (he ▸ h)
  rw [namesCommand, hlookup, beq_false_of_ne hne]
  rfl

/-- A command of the codes 0x20 to 0x28 serves its body to the control port alone. -/
theorem exec_controlOnly {c : Instr} {code : Byte} (h : requestCode c = some code) (hcode : 0x20 ≤ code.toNat) :
    ∃ body : Request → State → State × Answer, ∀ s, exec c s = .next (s.serve (· == code) (controlOnly body)) := by
  cases c with
  | setModule => cases h; exact ⟨_, fun _ => rfl⟩
  | setModuleTiming => cases h; exact ⟨_, fun _ => rfl⟩
  | setDomain => cases h; exact ⟨_, fun _ => rfl⟩
  | setKeepOn => cases h; exact ⟨_, fun _ => rfl⟩
  | setQuota => cases h; exact ⟨_, fun _ => rfl⟩
  | setTick => cases h; exact ⟨_, fun _ => rfl⟩
  | evict => cases h; exact ⟨_, fun _ => rfl⟩
  | retireAll => cases h; exact ⟨_, fun _ => rfl⟩
  | clearDomainFault => cases h; exact ⟨_, fun _ => rfl⟩
  | _ => cases h <;> exact absurd hcode (by decide)

/-- Settles O9: both refusals are bodies that change nothing. -/
theorem refusedCodesChangeNothing : Obligations.RefusedCodesChangeNothing := by
  unfold Obligations.RefusedCodesChangeNothing
  refine ⟨fun s p r n hrun hnext hn hcodes => ⟨_, rfl, ?_⟩, fun c code s p r hc hcode hp hs => ?_⟩
  · subst hn
    exact served_unchanged ⟨hrun, hnext, rfl⟩ (accepts := fun code => !namesCommand code)
      (by rw [namesCommand_of_unnamed hcodes]; rfl) rfl
  · obtain ⟨body, hexec⟩ := exec_controlOnly hc hcode
    exact ⟨_, hexec s,
      served_unchanged hs (accepts := (· == code)) (beq_self_eq_true code) (controlOnly_refused hp r _)⟩

end Sys2Proof.Machine


namespace Sys2Proof.Machine

/-! ### Alert sets (R162) -/

/-- The conditions on one alert set: ascending subjects, and a reason for each. -/
def AlertsRight (l : List AlertEntry) : Prop :=
  (l.Pairwise fun a b => subjectCode a.subject < subjectCode b.subject) ∧ ∀ a ∈ l, a.reasons ≠ 0

theorem subjectCode_injective : Function.Injective subjectCode
  | .module _, .module _, h => congrArg Subject.module (Fin.ext h)
  | .domain _, .domain _, h => congrArg Subject.domain (Fin.ext (Nat.add_left_cancel h))
  | .module m, .domain x, h => absurd h (by have := m.isLt; simp only [subjectCode]; omega)
  | .domain x, .module m, h => absurd h (by have := m.isLt; simp only [subjectCode]; omega)

theorem or_reasonBit_ne_zero (old : Byte) (why : Reason) : old ||| reasonBit why ≠ 0 := fun h =>
  absurd (BitVec.or_eq_zero_iff.1 h).2 (by cases why <;> decide)

section
variable {l : List AlertEntry} (j : Subject) (why : Reason)

/-- Uniting brings no subject in but its own. -/
theorem subject_of_mem_uniteAlert {a : AlertEntry} (h : a ∈ uniteAlert j why l) :
    a.subject = j ∨ ∃ b ∈ l, b.subject = a.subject := by
  induction l with
  | nil => exact .inl (by rw [List.mem_singleton.1 h])
  | cons b rest ih =>
    unfold uniteAlert at h
    split_ifs at h with hlt heq
    · rcases List.mem_cons.1 h with rfl | h
      · exact .inl rfl
      · exact .inr ⟨a, h, rfl⟩
    · rcases List.mem_cons.1 h with rfl | h
      · exact .inl heq.symm
      · exact .inr ⟨a, List.mem_cons_of_mem b h, rfl⟩
    · rcases List.mem_cons.1 h with rfl | h
      · exact .inr ⟨a, List.mem_cons_self, rfl⟩
      · obtain hj | ⟨c, hc, hca⟩ := ih h
        · exact .inl hj
        · exact .inr ⟨c, List.mem_cons_of_mem b hc, hca⟩

/-- Uniting keeps the subjects ascending (R162). -/
theorem uniteAlert_ascending (h : l.Pairwise fun a b => subjectCode a.subject < subjectCode b.subject) :
    (uniteAlert j why l).Pairwise fun a b => subjectCode a.subject < subjectCode b.subject := by
  induction l with
  | nil => exact List.pairwise_singleton ..
  | cons b rest ih =>
    obtain ⟨hb, hrest⟩ := List.pairwise_cons.1 h
    unfold uniteAlert
    split_ifs with hlt heq
    · refine List.pairwise_cons.2 ⟨fun a ha => ?_, h⟩
      rcases List.mem_cons.1 ha with rfl | ha
      · exact hlt
      · exact hlt.trans (hb a ha)
    · exact List.pairwise_cons.2 ⟨hb, hrest⟩
    · refine List.pairwise_cons.2 ⟨fun a ha => ?_, ih hrest⟩
      obtain hj | ⟨c, hc, hca⟩ := subject_of_mem_uniteAlert j why ha
      · rw [hj]
        exact lt_of_le_of_ne (not_lt.1 hlt) fun he => heq (subjectCode_injective he).symm
      · rw [← hca]
        exact hb c hc

/-- Uniting leaves every other subject (R162). -/
theorem mem_uniteAlert_of_ne {a : AlertEntry} (ha : a.subject ≠ j) : a ∈ uniteAlert j why l ↔ a ∈ l := by
  have hne {x : Byte} : a ≠ { subject := j, reasons := x } := fun he => ha (by rw [he])
  induction l with
  | nil => simp [uniteAlert, hne]
  | cons b rest ih =>
    unfold uniteAlert
    split_ifs with hlt heq
    · simp [hne]
    · obtain ⟨k, old⟩ := b
      subst heq
      simp [hne]
    · simp [ih]

/-- The reasons `old` that a set holds of a subject, none where it does not hold the subject. -/
def HoldsReasons (l : List AlertEntry) (j : Subject) (old : Byte) : Prop :=
  { subject := j, reasons := old } ∈ l ∨ (old = 0 ∧ ∀ b ∈ l, b.subject ≠ j)

theorem holdsReasons_absent {old : Byte} (h : ∀ b ∈ l, b.subject ≠ j) : HoldsReasons l j old ↔ old = 0 :=
  ⟨fun ho => ho.elim (fun hm => absurd rfl (h _ hm)) fun hz => hz.1, fun hz => .inr ⟨hz, h⟩⟩

theorem holdsReasons_cons_self {old x : Byte} (h : ∀ b ∈ l, b.subject ≠ j) :
    HoldsReasons ({ subject := j, reasons := x } :: l) j old ↔ old = x := by
  refine ⟨fun ho => ?_, fun he => .inl (by rw [he]; exact List.mem_cons_self)⟩
  obtain hm | ⟨-, hne⟩ := ho
  · rcases List.mem_cons.1 hm with he | hm
    · cases he; rfl
    · exact absurd rfl (h _ hm)
  · exact absurd rfl (hne _ List.mem_cons_self)

theorem holdsReasons_cons_of_ne {b : AlertEntry} {old : Byte} (h : b.subject ≠ j) :
    HoldsReasons (b :: l) j old ↔ HoldsReasons l j old := by
  have hne : { subject := j, reasons := old } ≠ b := fun he => h (by rw [← he])
  simp [HoldsReasons, hne, h]

/-- Uniting joins the reason to those the subject has, or brings the subject in with it (R162). -/
theorem mem_uniteAlert_self (h : l.Pairwise fun a b => subjectCode a.subject < subjectCode b.subject) {x : Byte} :
    { subject := j, reasons := x } ∈ uniteAlert j why l ↔ ∃ old, x = old ||| reasonBit why ∧ HoldsReasons l j old := by
  have above {k : List AlertEntry} (hk : ∀ b ∈ k, subjectCode j < subjectCode b.subject) : ∀ b ∈ k, b.subject ≠ j :=
    fun b hb he => absurd (hk b hb) (by rw [he]; exact lt_irrefl _)
  induction l with
  | nil => simp [uniteAlert, HoldsReasons]
  | cons b rest ih =>
    obtain ⟨hb, hrest⟩ := List.pairwise_cons.1 h
    unfold uniteAlert
    split_ifs with hlt heq
    · have habsent : ∀ c ∈ b :: rest, c.subject ≠ j := above fun c hc => by
        rcases List.mem_cons.1 hc with rfl | hc
        · exact hlt
        · exact hlt.trans (hb c hc)
      have hnot : ({ subject := j, reasons := x } : AlertEntry) ∉ b :: rest := fun hm => habsent _ hm rfl
      have hzero : 0 ||| reasonBit why = reasonBit why := BitVec.zero_or
      simp only [holdsReasons_absent j habsent, exists_eq_right, hzero]
      rw [List.mem_cons, or_iff_left hnot, AlertEntry.mk.injEq, and_iff_right rfl]
    · obtain ⟨k, y⟩ := b
      subst heq
      have habsent := above hb
      have hnot : ({ subject := j, reasons := x } : AlertEntry) ∉ rest := fun hm => habsent _ hm rfl
      simp only [holdsReasons_cons_self j habsent, exists_eq_right]
      rw [List.mem_cons, or_iff_left hnot, AlertEntry.mk.injEq, and_iff_right rfl]
    · have hne : b.subject ≠ j := Ne.symm heq
      have hnot : ({ subject := j, reasons := x } : AlertEntry) ≠ b := fun he => hne (by rw [← he])
      simp only [holdsReasons_cons_of_ne j hne]
      exact List.mem_cons.trans ((or_iff_right hnot).trans (ih hrest))

/-- A united set, member by member: the other subjects as they were, and its own subject with the reason joined
(R162). -/
theorem mem_uniteAlert (h : l.Pairwise fun a b => subjectCode a.subject < subjectCode b.subject) {a : AlertEntry} :
    a ∈ uniteAlert j why l ↔
      (a ∈ l ∧ a.subject ≠ j) ∨
        (a.subject = j ∧ ∃ old : Byte, a.reasons = old ||| reasonBit why ∧ HoldsReasons l j old) := by
  by_cases ha : a.subject = j
  · obtain ⟨k, x⟩ := a
    subst ha
    simp [mem_uniteAlert_self _ why h]
  · simp [mem_uniteAlert_of_ne j why ha, ha]

/-- Uniting keeps an alert set right (R162). -/
theorem alertsRight_uniteAlert (h : AlertsRight l) : AlertsRight (uniteAlert j why l) := by
  obtain ⟨hasc, hreasons⟩ := h
  refine ⟨uniteAlert_ascending j why hasc, fun a ha => ?_⟩
  rcases (mem_uniteAlert j why hasc).1 ha with ⟨hold, -⟩ | ⟨-, old, hor, -⟩
  · exact hreasons a hold
  · rw [hor]
    exact or_reasonBit_ne_zero old why

end

/-! ### Requests that act on the port controller (R163, R164) -/

section
variable {s : State} {p : Port} {r : Request} {code : Byte} {accepts : Byte → Bool}
  {body : Port → Request → State → State × Answer} {a : Answer} {f : PortRec → PortRec}

/-- A body that changes the requester's controller alone, beside its slot. -/
theorem served_onController (h : Serving s p r code) (ha : accepts code = true)
    (hb : body p r (s.takeRequest p) = ((s.takeRequest p).onPort p f, a))
    (hf : ∀ q : PortRec, f { q with slot := none } = { f q with slot := none }) :
    (s.serve accepts body).ct = s.ct ∧ (s.serve accepts body).links = s.links ∧ SameBlocks s (s.serve accepts body) ∧
      Answered s (s.serve accepts body) p r a f := by
  rw [serve_of_serving h ha hb]
  refine ⟨rfl, rfl, ⟨rfl, rfl, rfl, rfl, rfl, rfl, rfl⟩, answered_writeAnswer rfl ?_ fun q hq => ?_⟩
  · rw [State.onPort_self, State.takeRequest_ports, modifyAt_get_self, hf]
  · rw [State.onPort_other hq, State.takeRequest_ports, modifyAt_get_ne _ _ hq]

end

theorem takeAlertBody_empty {s : State} {p : Port} (h : s.ports[p].alerts = []) (r : Request) :
    takeAlertBody p r s = (s, { status := .empty }) := by simp only [takeAlertBody, h]

theorem takeAlertBody_takes {s : State} {p : Port} {a : AlertEntry} {rest : List AlertEntry}
    (h : s.ports[p].alerts = a :: rest) (r : Request) :
    takeAlertBody p r s =
      (s.onPort p fun q => { q with alerts := rest },
        { status := .ok, b2 := byteOf (subjectCode a.subject), b3 := a.reasons }) := by
  simp only [takeAlertBody, h]

theorem State.takeRequest_alerts (s : State) (p : Port) : (s.takeRequest p).ports[p].alerts = s.ports[p].alerts := by
  rw [State.takeRequest_ports, modifyAt_get_self]

/-- A posting on its way to a port reaches it (R162). -/
theorem exec_alertPosting {s : State} {p : Port} {j : Subject} {why : Reason} (hr : Running s)
    (h : { port := p, subject := j, reason := why } ∈ s.links.alerts) :
    exec (.alertPostingReachesPort p j why) s =
      .next ((s.onLinks fun l =>
        { l with alerts := l.alerts.erase { port := p, subject := j, reason := why } }).onPort p fun q =>
          { q with alerts := uniteAlert j why q.alerts }) := by
  refine congrArg Host.Outcome.next ?_
  rw [State.awake_running _ hr, if_pos h]

/-- Settles O10: the posting is united into the set, and TAKE ALERT takes the set's head, its lowest subject. -/
theorem alertsArePostedAndTaken : Obligations.AlertsArePostedAndTaken := by
  unfold Obligations.AlertsArePostedAndTaken
  refine ⟨fun s p j why hr hsets hway => ?_, fun s p r hs hnone => ?_, fun s p r a rest hs hset => ?_⟩
  · refine ⟨_, exec_alertPosting hr hway, rfl, ⟨rfl, rfl, rfl, rfl, rfl, rfl, rfl⟩, rfl, rfl,
      fun q hq => State.onPort_other hq, ?_⟩
    rw [State.onPort_self]
    exact ⟨rfl, List.pairwise_map.2 (uniteAlert_ascending j why (hsets p).1), fun a => mem_uniteAlert j why (hsets p).1⟩
  · exact ⟨_, rfl, served_unchanged hs (accepts := (· == codeTakeAlert)) rfl
      (takeAlertBody_empty ((s.takeRequest_alerts p).trans hnone) r)⟩
  · exact ⟨_, rfl, served_onController hs (accepts := (· == codeTakeAlert)) rfl
      (takeAlertBody_takes ((s.takeRequest_alerts p).trans hset) r) fun _ => rfl⟩

theorem setNotifyBody_sets {r : Request} {on : Bool} (h : switchOf (r.byte 2) = some on) (p : Port) (s : State) :
    setNotifyBody p r s = (s.onPort p fun q => { q with notify := on }, { status := .ok, b2 := boolByte on }) := by
  simp only [setNotifyBody, h]

theorem setNotifyBody_refused {r : Request} (h : switchOf (r.byte 2) = none) (p : Port) (s : State) :
    setNotifyBody p r s = (s, .refused .badArgument) := by simp only [setNotifyBody, h]

/-- HINT_N is asserted just while notify is on and one of the two sets is nonempty (R165). -/
theorem State.hintAsserted_iff {s : State} {p : Port} :
    s.hintAsserted p = true ↔ s.ports[p].notify = true ∧ (s.ct.ports[p].changes ≠ [] ∨ s.ports[p].alerts ≠ []) := by
  simp [State.hintAsserted]

/-- Settles O11, by the three readings of the switch operand. -/
theorem setNotifySetsTheEnable : Obligations.SetNotifySetsTheEnable := by
  unfold Obligations.SetNotifySetsTheEnable
  intro s p r hs
  have sets {on : Bool} (h : switchOf (r.byte 2) = some on) :=
    served_onController hs (accepts := (· == codeSetNotify)) rfl (setNotifyBody_sets h p (s.takeRequest p)) fun _ => rfl
  refine ⟨_, rfl, ?_⟩
  by_cases h0 : r.byte 2 = 0x00
  · obtain ⟨hct, hlinks, hblocks, hans⟩ := sets (on := false) (by rw [h0]; rfl)
    exact ⟨hct, hlinks, hblocks, fun _ => hans, fun h1 => absurd (h0.symm.trans h1) (by decide),
      fun hne _ => absurd h0 hne, State.hintAsserted_iff⟩
  · by_cases h1 : r.byte 2 = 0x01
    · obtain ⟨hct, hlinks, hblocks, hans⟩ := sets (on := true) (by rw [h1]; rfl)
      exact ⟨hct, hlinks, hblocks, fun hz => absurd hz h0, fun _ => hans, fun _ hne => absurd h1 hne,
        State.hintAsserted_iff⟩
    · have hbad : switchOf (r.byte 2) = none := (if_neg h0).trans (if_neg h1)
      obtain ⟨hct, hlinks, hblocks, hans⟩ := served_unchanged hs (accepts := (· == codeSetNotify)) rfl
        (setNotifyBody_refused hbad p (s.takeRequest p))
      exact ⟨hct, hlinks, hblocks, fun hz => absurd hz h0, fun ho => absurd ho h1, fun _ _ => hans,
        State.hintAsserted_iff⟩

end Sys2Proof.Machine


namespace Sys2Proof.Machine

/-! ### What leaves the port controllers: the engines, the demand resolver and time -/

/-- Every write of an engine leaves the port controllers. -/
theorem ports_engineKept (v : Vector PortRec 4) : EngineKept fun u => u.ports = v :=
  ⟨fun _ _ h => h, fun _ _ h => h, fun _ _ h => h, fun _ _ h => h, fun _ _ h => h, fun _ _ _ h => h⟩

section
variable (s : State) (e : Domain) (m : Module) (x : SwDom)

@[simp] theorem State.settleEngine_ports : (s.settleEngine e).ports = s.ports :=
  (ports_engineKept s.ports).settleEngine e rfl

@[simp] theorem State.finishStep_ports (t : Transition) : (s.finishStep e t).ports = s.ports :=
  (ports_engineKept s.ports).finishStep e t rfl

@[simp] theorem State.faultModule_ports (c : ModCause) : (s.faultModule e m c).ports = s.ports :=
  (ports_engineKept s.ports).faultModule e m c rfl

@[simp] theorem State.faultDomain_ports (c : DomCause) : (s.faultDomain x c).ports = s.ports :=
  (ports_engineKept s.ports).faultDomain x c rfl

@[simp] theorem State.releaseModule_ports : (s.releaseModule e m).ports = s.ports :=
  (ports_engineKept s.ports).releaseModule e m rfl

@[simp] theorem State.releaseDomainModules_ports : (s.releaseDomainModules x).ports = s.ports :=
  (ports_engineKept s.ports).releaseDomainModules x rfl

@[simp] theorem State.takeTarget_ports (t : Target) : (s.takeTarget e m t).ports = s.ports :=
  (ports_engineKept s.ports).takeTarget e m t rfl

@[simp] theorem State.takeRestartPosting_ports (p : Port) : (s.takeRestartPosting e m p).ports = s.ports :=
  (ports_engineKept s.ports).takeRestartPosting e m p rfl

@[simp] theorem State.takeModule_ports (r : DirRecord) : (s.takeModule m r).ports = s.ports :=
  (ports_engineKept s.ports).takeModule m r rfl

@[simp] theorem State.takeEngineTick_ports : (s.takeEngineTick e).ports = s.ports := (timeOnly_takeEngineTick s e).1

@[simp] theorem State.takeCtTick_ports : s.takeCtTick.ports = s.ports := (timeOnly_takeCtTick s).1

@[simp] theorem State.takeDrTick_ports : s.takeDrTick.ports = s.ports := (timeOnly_takeDrTick s).1

@[simp] theorem State.endPeriod_ports : s.endPeriod.ports = s.ports := (timeOnly_endPeriod s).1

@[simp] theorem State.elapse_ports (d : Nat) : (s.elapse d).ports = s.ports := (timeOnly_elapse s d).1

@[simp] theorem State.takeClaimed_ports (l : Level) : (s.takeClaimed m l).ports = s.ports := by simp [State.takeClaimed]

@[simp] theorem State.takeState_ports (v : DrView) : (s.takeState m v).ports = s.ports := by simp [State.takeState]

@[simp] theorem State.takeDrFault_ports : (s.takeDrFault m).ports = s.ports := by
  unfold State.takeDrFault
  split <;> simp

@[simp] theorem State.takeModuleDr_ports (r : DirRecord) : (s.takeModuleDr m r).ports = s.ports := by
  rw [State.takeModuleDr_eq]
  simp

@[simp] theorem State.takeWakeRise_ports : (s.takeWakeRise m).ports = s.ports := by
  unfold State.takeWakeRise
  dsimp only
  split
  · simp
  · split <;> simp

@[simp] theorem State.takeWakeFall_ports : (s.takeWakeFall m).ports = s.ports := by
  unfold State.takeWakeFall
  split <;> simp

@[simp] theorem State.takeEdge_ports (g : Edge) : (s.takeEdge g).ports = s.ports := by
  unfold State.takeEdge
  split
  · split
    · exact (ports_engineKept s.ports).takeReadyRise _ rfl
    · exact (ports_engineKept s.ports).takeReadyFall _ rfl
  · split <;> simp
  · split
    · exact (ports_engineKept s.ports).takePowerRise _ rfl
    · exact (ports_engineKept s.ports).takePowerFall _ rfl

@[simp] theorem State.takeWaiting_ports (g : Edge) : (s.takeWaiting g).ports = s.ports := by simp [State.takeWaiting]

theorem State.awake_ports {s : State} (f : State → State) (h : (f s).ports = s.ports) : (s.awake f).ports = s.ports :=
  State.awake_keeps (fun u => u.ports = s.ports) f rfl fun _ => h

/-- A pin is driven and its edges are taken (R45). -/
theorem State.edges_ports (g : Edge) (p : Pin) : ((s.drive g).takeEdges p).ports = s.ports := by
  have hdrive : (s.drive g).ports = s.ports := by
    unfold State.drive
    split <;> simp
  exact State.awake_keeps (fun u => u.ports = s.ports) _ hdrive fun _ =>
    foldl_keeps (fun u => u.ports = s.ports) State.takeWaiting (fun u k hu => (u.takeWaiting_ports k).trans hu) _ _
      hdrive

theorem State.idle_ports : s.idle.ports = s.ports := by
  unfold State.idle
  split
  · rfl
  · refine State.awake_ports _ ?_
    split <;> simp

end

end Sys2Proof.Machine


namespace Sys2Proof.Machine

/-! ### What the body of a request leaves of the port controllers (R163, R166) -/

/-- A body leaves every port controller. -/
abbrev SparesPorts (body : Port → Request → State → State × Answer) : Prop := ∀ p r s, (body p r s).1.ports = s.ports

/-- A body replies, and takes from the requester's alert set at most. -/
abbrev KeepsPorts (body : Port → Request → State → State × Answer) : Prop :=
  ∀ p r s, Replied p s (body p r s) ∧ (body p r s).1.ports[p].alerts <:+ s.ports[p].alerts

theorem SparesPorts.keepsPorts {body : Port → Request → State → State × Answer} (h : SparesPorts body)
    (hb : ∀ p r s, Replied p s (body p r s)) : KeepsPorts body :=
  fun p r s => ⟨hb p r s, by rw [h p r s]⟩

theorem placeBody_sparesPorts : SparesPorts placeBody := fun p r s => by
  unfold placeBody
  repeat' split
  all_goals simp

theorem changeBody_sparesPorts : SparesPorts changeBody := fun p r s => by
  unfold changeBody
  repeat' split
  all_goals simp

theorem renewBody_sparesPorts : SparesPorts renewBody := fun p r s => by
  unfold renewBody
  repeat' split
  all_goals rfl

theorem releaseBody_sparesPorts : SparesPorts releaseBody := fun p r s => by
  unfold releaseBody
  repeat' split
  all_goals simp

theorem queryClaimBody_sparesPorts : SparesPorts queryClaimBody := fun p r s => by rw [queryClaimBody_unchanged]

theorem queryModuleBody_sparesPorts : SparesPorts queryModuleBody := fun p r s => by rw [queryModuleBody_unchanged]

theorem queryDomainBody_sparesPorts : SparesPorts queryDomainBody := fun p r s => by rw [queryDomainBody_unchanged]

theorem browseBody_sparesPorts : SparesPorts browseBody := fun p r s => by
  obtain ⟨f, a, h⟩ := browseBody_onCt p r s
  rw [h, State.onCt_ports]

theorem browseNextBody_sparesPorts : SparesPorts browseNextBody := fun p r s => by
  obtain ⟨f, a, h⟩ := browseNextBody_onCt p r s
  rw [h, State.onCt_ports]

theorem takeChangeBody_sparesPorts : SparesPorts takeChangeBody := fun p r s => by
  obtain ⟨f, a, h⟩ := takeChangeBody_onCt p r s
  rw [h, State.onCt_ports]

theorem restartBody_sparesPorts : SparesPorts restartBody := fun p r s => by
  unfold restartBody
  repeat' split
  all_goals rfl

theorem HandsOver.ports {s u : State} (h : HandsOver s u) : u.ports = s.ports := by
  obtain rfl | ⟨e, n, rfl⟩ := h
  · rfl
  · rfl

theorem clearModuleFaultBody_sparesPorts : SparesPorts clearModuleFaultBody :=
  fun p r s => (clearModuleFaultBody_handsOver p r s).ports

/-- What a control-port body leaves as HP0, its command leaves for every port (R158). -/
theorem controlOnly_sparesPorts {body : Request → State → State × Answer} (h : ∀ r s, (body r s).1.ports = s.ports) :
    SparesPorts (controlOnly body) := fun p r s => by
  unfold controlOnly
  split
  · exact h r s
  · rfl

theorem setModuleBody_sparesPorts : SparesPorts (controlOnly setModuleBody) :=
  controlOnly_sparesPorts fun r s => by
    unfold setModuleBody
    split
    · rfl
    · dsimp only
      repeat' split
      all_goals rfl

theorem setModuleTimingBody_sparesPorts : SparesPorts (controlOnly setModuleTimingBody) :=
  controlOnly_sparesPorts fun r s => by
    unfold setModuleTimingBody
    repeat' split
    all_goals rfl

theorem setDomainBody_sparesPorts : SparesPorts (controlOnly setDomainBody) :=
  controlOnly_sparesPorts fun r s => by
    unfold setDomainBody
    repeat' split
    all_goals rfl

theorem setKeepOnBody_sparesPorts : SparesPorts (controlOnly setKeepOnBody) :=
  controlOnly_sparesPorts fun r s => by
    unfold setKeepOnBody
    split <;> rfl

theorem setQuotaBody_sparesPorts : SparesPorts (controlOnly setQuotaBody) :=
  controlOnly_sparesPorts fun r s => by
    unfold setQuotaBody
    repeat' split
    all_goals rfl

theorem setTickBody_sparesPorts : SparesPorts (controlOnly setTickBody) :=
  controlOnly_sparesPorts fun r s => by
    unfold setTickBody
    dsimp only
    split <;> rfl

theorem evictBody_sparesPorts : SparesPorts (controlOnly evictBody) :=
  controlOnly_sparesPorts fun r s => by
    unfold evictBody
    repeat' split
    all_goals simp

theorem retireAllBody_sparesPorts : SparesPorts (controlOnly retireAllBody) :=
  controlOnly_sparesPorts fun _ s => by simp [retireAllBody]

theorem clearDomainFaultBody_sparesPorts : SparesPorts (controlOnly clearDomainFaultBody) :=
  controlOnly_sparesPorts fun r s => (clearDomainFaultBody_handsOver r s).ports

/-- TAKE ALERT takes the head of the alert set (R163). -/
theorem takeAlertBody_keepsPorts : KeepsPorts takeAlertBody := fun p r s => by
  refine ⟨takeAlertBody_replied p r s, ?_⟩
  cases h : s.ports[p].alerts with
  | nil => rw [takeAlertBody_empty h, h]
  | cons a rest => rw [takeAlertBody_takes h, State.onPort_self]; exact List.suffix_cons a rest

theorem setNotifyBody_keepsPorts : KeepsPorts setNotifyBody := fun p r s => by
  refine ⟨setNotifyBody_replied p r s, ?_⟩
  cases h : switchOf (r.byte 2) with
  | none => rw [setNotifyBody_refused h]
  | some on => rw [setNotifyBody_sets h, State.onPort_self]

/-- DETACH empties the alert set (R166). -/
theorem detachBody_keepsPorts : KeepsPorts detachBody := fun p r s =>
  ⟨detachBody_replied p r s, by rw [detachBody, State.onPort_self]; exact List.nil_suffix⟩

/-- A request command serves a body that replies and takes from the alert set at most. -/
theorem exec_request_keepsPorts {c : Instr} {code : Byte} (h : requestCode c = some code) :
    ∃ (accepts : Byte → Bool) (body : Port → Request → State → State × Answer),
      KeepsPorts body ∧ ∀ s, exec c s = .next (s.serve accepts body) := by
  cases c with
  | place => exact ⟨_, _, placeBody_sparesPorts.keepsPorts placeBody_replied, fun _ => rfl⟩
  | change => exact ⟨_, _, changeBody_sparesPorts.keepsPorts changeBody_replied, fun _ => rfl⟩
  | renew => exact ⟨_, _, renewBody_sparesPorts.keepsPorts renewBody_replied, fun _ => rfl⟩
  | release => exact ⟨_, _, releaseBody_sparesPorts.keepsPorts releaseBody_replied, fun _ => rfl⟩
  | queryClaim => exact ⟨_, _, queryClaimBody_sparesPorts.keepsPorts queryClaimBody_replied, fun _ => rfl⟩
  | queryModule => exact ⟨_, _, queryModuleBody_sparesPorts.keepsPorts queryModuleBody_replied, fun _ => rfl⟩
  | queryDomain => exact ⟨_, _, queryDomainBody_sparesPorts.keepsPorts queryDomainBody_replied, fun _ => rfl⟩
  | browse => exact ⟨_, _, browseBody_sparesPorts.keepsPorts browseBody_replied, fun _ => rfl⟩
  | browseNext => exact ⟨_, _, browseNextBody_sparesPorts.keepsPorts browseNextBody_replied, fun _ => rfl⟩
  | takeChange => exact ⟨_, _, takeChangeBody_sparesPorts.keepsPorts takeChangeBody_replied, fun _ => rfl⟩
  | takeAlert => exact ⟨_, _, takeAlertBody_keepsPorts, fun _ => rfl⟩
  | setNotify => exact ⟨_, _, setNotifyBody_keepsPorts, fun _ => rfl⟩
  | restart => exact ⟨_, _, restartBody_sparesPorts.keepsPorts restartBody_replied, fun _ => rfl⟩
  | clearModuleFault =>
    exact ⟨_, _, clearModuleFaultBody_sparesPorts.keepsPorts clearModuleFaultBody_replied, fun _ => rfl⟩
  | detach => exact ⟨_, _, detachBody_keepsPorts, fun _ => rfl⟩
  | setModule =>
    exact ⟨_, _, setModuleBody_sparesPorts.keepsPorts (controlOnly_replied setModuleBody_replied), fun _ => rfl⟩
  | setModuleTiming =>
    exact ⟨_, _, setModuleTimingBody_sparesPorts.keepsPorts (controlOnly_replied setModuleTimingBody_replied),
      fun _ => rfl⟩
  | setDomain =>
    exact ⟨_, _, setDomainBody_sparesPorts.keepsPorts (controlOnly_replied setDomainBody_replied), fun _ => rfl⟩
  | setKeepOn =>
    exact ⟨_, _, setKeepOnBody_sparesPorts.keepsPorts (controlOnly_replied setKeepOnBody_replied), fun _ => rfl⟩
  | setQuota =>
    exact ⟨_, _, setQuotaBody_sparesPorts.keepsPorts (controlOnly_replied setQuotaBody_replied), fun _ => rfl⟩
  | setTick => exact ⟨_, _, setTickBody_sparesPorts.keepsPorts (controlOnly_replied setTickBody_replied), fun _ => rfl⟩
  | evict => exact ⟨_, _, evictBody_sparesPorts.keepsPorts (controlOnly_replied evictBody_replied), fun _ => rfl⟩
  | retireAll =>
    exact ⟨_, _, retireAllBody_sparesPorts.keepsPorts (controlOnly_replied retireAllBody_replied), fun _ => rfl⟩
  | clearDomainFault =>
    exact ⟨_, _, clearDomainFaultBody_sparesPorts.keepsPorts (controlOnly_replied clearDomainFaultBody_replied),
      fun _ => rfl⟩
  | _ => cases h

end Sys2Proof.Machine


namespace Sys2Proof.Machine

/-! ### One port controller is right (R153, R155, R156, R162) -/

/-- The holder shows WAITING just while the slot is occupied, with the waiting request's sequence (R153, R155, R156). -/
def PortRec.ShowsWaiting (q : PortRec) : Prop :=
  (q.slot.isSome = true ↔ q.holder.status = statusCode .waiting) ∧ ∀ r ∈ q.slot, q.holder.echo.setWidth 4 = r.sequence

/-- The conditions on one port controller. -/
def PortRec.Right (q : PortRec) : Prop := AlertsRight q.alerts ∧ q.ShowsWaiting

abbrev PortsRight (s : State) : Prop := ∀ p : Port, s.ports[p].Right

theorem portsRight_iff {s : State} : PortsRight s ↔ AlertSetsRight s ∧ WaitingRight s := forall_and

theorem AlertsRight.suffix {l k : List AlertEntry} (h : AlertsRight l) (hk : k <:+ l) : AlertsRight k := by
  obtain ⟨hasc, hreasons⟩ := h
  exact ⟨hasc.sublist hk.sublist, fun a ha => hreasons a (hk.subset ha)⟩

theorem PortRec.reset_right (w : Wire) : { PortRec.reset with wire := w }.Right := by
  have hstatus : AnswerBytes.reset.status ≠ statusCode .waiting := by decide
  exact ⟨⟨.nil, nofun⟩, ⟨nofun, fun h => absurd h hstatus⟩, nofun⟩

section
variable {q : PortRec} {changes : Bool}

/-- WAITING is written with the request that enters the slot (R153). -/
theorem PortRec.Right.waiting (h : q.Right) (r : Request) : (q.waiting r changes).Right :=
  ⟨h.1, ⟨fun _ => rfl, fun _ => rfl⟩, fun _ hr => by cases hr; exact echoByte_sequence ..⟩

theorem PortRec.Right.classified (h : q.Right) (bytes : List Byte) : (q.classified changes bytes).Right := by
  unfold PortRec.classified
  split
  · exact h
  · split_ifs
    · exact h
    · exact h
    · exact h
    · exact h.waiting _

/-- An answer that is not WAITING is written with the slot empty (R155, R156). -/
theorem PortRec.answered_right (h : AlertsRight q.alerts) {n : BitVec 4} {a : Answer} (ha : a.status ≠ .waiting) :
    (q.answered n a changes).Right :=
  ⟨h, ⟨nofun, fun hw => absurd hw (statusCode_ne_waiting ha)⟩, nofun⟩

end

/-! ### Every command and every step -/

section
variable {s t : State} (hs : PortsRight s)
include hs

theorem portsRight_onPort {p : Port} {f : PortRec → PortRec} (hf : s.ports[p].Right → (f s.ports[p]).Right) :
    PortsRight (s.onPort p f) := fun q => by
  by_cases hq : q = p
  · subst hq
    rw [State.onPort_self]
    exact hf (hs q)
  · rw [State.onPort_other hq]
    exact hs q

theorem portsRight_of_ports (h : t.ports = s.ports) : PortsRight t := fun p => by rw [h]; exact hs p

theorem execFrameBegin_portsRight {p : Port} (h : execFrameBegin p s = .next t) : PortsRight t := by
  cases h
  refine portsRight_onPort hs fun hp => ?_
  split <;> exact hp

theorem execFrameEnd_portsRight {p : Port} {bits : List Bool} (h : execFrameEnd p bits s = .next t) :
    PortsRight t := by
  cases h
  have hend : PortsRight (s.onPort p fun q => { q with wire := .deselected }) := portsRight_onPort hs fun hp => hp
  split
  · exact hs
  · exact hend
  · rw [State.classify_eq]
    exact portsRight_onPort hend fun hp => hp.classified _

theorem execAlertPostingReachesPort_portsRight {p : Port} {j : Subject} {why : Reason}
    (h : execAlertPostingReachesPort p j why s = .next t) : PortsRight t := by
  cases h
  refine State.awake_keeps PortsRight _ hs fun _ => ?_
  split
  · exact portsRight_onPort (s := s.onLinks _) hs fun hp => ⟨alertsRight_uniteAlert j why hp.1, hp.2⟩
  · exact hs

/-- A request that is served leaves its slot answered, with a part of the alert set (R26, R155). -/
theorem portsRight_serve {accepts : Byte → Bool} {body : Port → Request → State → State × Answer}
    (hb : KeepsPorts body) : PortsRight (s.serve accepts body) := by
  refine State.serve_keeps PortsRight hs fun p r _ _ _ => ?_
  obtain ⟨hreplied, halerts⟩ := hb p r (s.takeRequest p)
  rw [State.takeRequest_alerts] at halerts
  obtain ⟨-, hown, hothers⟩ := hreplied.answered (r := r)
  intro q
  by_cases hq : q = p
  · subst hq
    rw [hown]
    refine PortRec.answered_right ?_ hreplied.status
    exact (hs q).1.suffix halerts
  · rw [hothers q hq]
    exact hs q

/-- Frames, alert postings and requests keep the controller they write right; every other event writes none, and device
reset empties them all. -/
theorem exec_portsRight {c : Instr} (h : exec c s = .next t) : PortsRight t := by
  have elsewhere (he : t.ports = s.ports) : PortsRight t := portsRight_of_ports hs he
  cases hcode : requestCode c with
  | some code =>
    obtain ⟨accepts, body, hb, he⟩ := exec_request_keepsPorts hcode
    cases (he s).symm.trans h
    exact portsRight_serve hs hb
  | none =>
    cases c with
    | badCommand => cases h; exact portsRight_serve hs fun _ _ _ => ⟨.unchanged nofun, List.suffix_rfl⟩
    | deviceResetAsserted =>
      intro p
      rw [reset_port h p]
      exact PortRec.reset_right _
    | deviceResetReleased => cases h; exact hs
    | frameBegin p => exact execFrameBegin_portsRight hs h
    | frameEnd p bits => exact execFrameEnd_portsRight hs h
    | alertPostingReachesPort p j why => exact execAlertPostingReachesPort_portsRight hs h
    | mrdyRise m | mrdyFall m | mwakeRise m | mwakeFall m | dpgRise x | dpgFall x =>
      cases h
      exact elsewhere (State.edges_ports ..)
    | tick | takeEntry e =>
      cases h
      exact elsewhere (State.awake_ports _ (by simp))
    | levelNotice e | restartStartNotice e | restartEndNotice e | faultNoticeAtCt e | setTickHandover | leaseCountdown
    | lapse sl | claimedLevelNotice m | stateNotice e | faultNoticeAtDr e | setModuleHandoverDr m | setKeepOnHandover x
    | idleCountTick | idleCountRunsOut m | targetPostingAtEngine e | needPosting x | restartPosting e
    | setModuleTimingHandover e | setDomainHandover x | rampTimeout x | offTimeout x | lingerTick e
    | lingerRunsOut x =>
      cases h
      refine elsewhere (State.awake_ports _ ?_)
      split <;> simp
    | setModuleHandoverEngine e | hold e | ackTimeout e =>
      cases h
      refine elsewhere (State.awake_ports _ ?_)
      repeat' split
      all_goals simp
    | supplierFaultNotice e | supplierClearNotice e | moduleClear e | domainClear x =>
      cases h
      refine elsewhere (State.awake_ports _ ?_)
      split
      · dsimp only
        split <;> simp
      all_goals rfl
    | _ => cases hcode

end

/-- Settles O56: a request that enters its slot is shown WAITING and one that leaves it is answered, an alert is united
in order, and nothing else reaches a port controller. -/
theorem everyStepKeepsThePorts : Obligations.EveryStepKeepsThePorts := by
  unfold Obligations.EveryStepKeepsThePorts
  intro s t hs h
  rw [← portsRight_iff] at hs ⊢
  unfold step at h
  cases hp : s.pending with
  | nil =>
    rw [hp] at h
    cases h
    exact portsRight_of_ports hs s.idle_ports
  | cons c rest =>
    rw [hp] at h
    exact exec_portsRight (s := { s with pending := rest }) hs h

end Sys2Proof.Machine


namespace Sys2Proof.Machine

/-! ### The operands of the settings (R159, Table 10-4) -/

theorem swDomOf_eq_none {b : Byte} : swDomOf b = none ↔ b.toNat = 0 ∨ 4 ≤ b.toNat := by
  unfold swDomOf
  split
  · simp only [reduceCtorEq, false_iff]; omega
  · simp only [true_iff]; omega

theorem switchOf_eq_some {b : Byte} {on : Bool} : switchOf b = some on ↔ b.toNat = on.toNat := by
  revert b on; decide

theorem switchOf_eq_none {b : Byte} : switchOf b = none ↔ 2 ≤ b.toNat := by
  revert b; decide

theorem timeoutFits_iff {n : Nat} : timeoutFits n = true ↔ 1 ≤ n ∧ n ≤ 1023 := decide_eq_true_iff

theorem boolByte_eq (on : Bool) : boolByte on = BitVec.ofNat 8 on.toNat := by cases on <;> rfl

theorem byte_pos_iff {b : Byte} : 1 ≤ b.toNat ↔ b ≠ 0 := by
  rw [Nat.one_le_iff_ne_zero, Ne, Ne, BitVec.toNat_eq]; rfl

/-! ### Requests that hand their values over (R74) -/

section
variable {s : State} {p : Port} {r : Request} {code : Byte} {accepts : Byte → Bool}
  {body : Port → Request → State → State × Answer} {a : Answer}

/-- A body that changes nothing but the streams in flight leaves every block. -/
theorem served_onLinks_frame (h : Serving s p r code) (ha : accepts code = true)
    (hb : ∃ f a, body p r (s.takeRequest p) = ((s.takeRequest p).onLinks f, a)) :
    (s.serve accepts body).ct = s.ct ∧ SameBlocks s (s.serve accepts body) := by
  obtain ⟨f, a, hf⟩ := hb
  rw [serve_of_serving h ha hf]
  exact ⟨rfl, rfl, rfl, rfl, rfl, rfl, rfl, rfl⟩

theorem served_onLinks (h : Serving s p r code) (ha : accepts code = true) {f : Links → Links}
    (hb : body p r (s.takeRequest p) = ((s.takeRequest p).onLinks f, a)) :
    (s.serve accepts body).links = f s.links ∧ Answered s (s.serve accepts body) p r a id := by
  rw [serve_of_serving h ha hb]
  exact ⟨rfl, answered_of_taken rfl rfl⟩

end

/-! ### SET MODULE TIMING (R170) -/

section
variable {s : State} {r : Request} {m : Module}

/-- The values of SET MODULE TIMING are in their ranges (R170). -/
abbrev Request.timingFits (r : Request) : Prop :=
  1 ≤ (r.half 3).toNat ∧ (r.half 3).toNat ≤ 1023 ∧ r.byte 5 ≠ 0 ∧ r.byte 6 ≠ 0

theorem setModuleTimingBody_badOperand (h : 32 ≤ (r.byte 2).toNat) :
    setModuleTimingBody r s = (s, .refused .badArgument) := by
  simp only [setModuleTimingBody, moduleOf_eq_none.2 h]

/-- SET MODULE TIMING of a module in range: the checks of R170 in their order. -/
theorem setModuleTimingBody_eq (hm : (r.byte 2).toNat = m.val) :
    setModuleTimingBody r s =
      if s.ct.dir[m].present = false then (s, .refused .noModule)
      else if ¬r.timingFits then (s, .refused .badArgument)
      else
        (s.postEngine s.ct.dir[m].domain (.setTiming m (r.half 3).toNat (r.byte 5).toNat (r.byte 6).toNat),
          { status := .ok, b2 := r.byte 2 }) := by
  have hbyte : byteOf m.val = r.byte 2 := by rw [← hm, byteOf_toNat]
  simp only [setModuleTimingBody, moduleOf_eq_some.2 hm, hbyte, Bool.not_eq_true', ← Bool.not_eq_true, Bool.and_eq_true,
    timeoutFits_iff, decide_eq_true_eq, byte_pos_iff, and_assoc]

theorem setModuleTimingBody_onLinks (r : Request) (s : State) : ∃ f a, setModuleTimingBody r s = (s.onLinks f, a) := by
  unfold setModuleTimingBody
  split
  · exact ⟨id, _, rfl⟩
  · split_ifs
    · exact ⟨id, _, rfl⟩
    · exact ⟨id, _, rfl⟩
    · exact ⟨_, _, rfl⟩

end

/-! ### SET DOMAIN (R171) -/

section
variable {s : State} {r : Request} {x : SwDom}

/-- The two timeouts of SET DOMAIN are in their range (R171). -/
abbrev Request.timeoutsFit (r : Request) : Prop :=
  1 ≤ (r.half 3).toNat ∧ (r.half 3).toNat ≤ 1023 ∧ 1 ≤ (r.half 5).toNat ∧ (r.half 5).toNat ≤ 1023

theorem setDomainBody_badOperand (h : (r.byte 2).toNat = 0 ∨ 4 ≤ (r.byte 2).toNat) :
    setDomainBody r s = (s, .refused .badArgument) := by
  simp only [setDomainBody, swDomOf_eq_none.2 h]

/-- SET DOMAIN of a switched domain. -/
theorem setDomainBody_eq (hx : swDomOf (r.byte 2) = some x) :
    setDomainBody r s =
      if ¬r.timeoutsFit then (s, .refused .badArgument)
      else
        (s.postEngine x.domain (.setDomain x (r.half 3).toNat (r.half 5).toNat (r.byte 7).toNat),
          { status := .ok, b2 := r.byte 2 }) := by
  simp only [setDomainBody, hx, Bool.not_eq_true', ← Bool.not_eq_true, Bool.and_eq_true, timeoutFits_iff, and_assoc]

theorem setDomainBody_refused (h : (r.byte 2).toNat = 0 ∨ 4 ≤ (r.byte 2).toNat ∨ ¬r.timeoutsFit) :
    setDomainBody r s = (s, .refused .badArgument) := by
  cases hx : swDomOf (r.byte 2) with
  | none => exact setDomainBody_badOperand (swDomOf_eq_none.1 hx)
  | some x =>
    have hinRange : ¬((r.byte 2).toNat = 0 ∨ 4 ≤ (r.byte 2).toNat) := by rw [← swDomOf_eq_none, hx]; nofun
    rw [setDomainBody_eq hx, if_pos ((or_assoc.2 h).resolve_left hinRange)]

theorem setDomainBody_onLinks (r : Request) (s : State) : ∃ f a, setDomainBody r s = (s.onLinks f, a) := by
  unfold setDomainBody
  split
  · exact ⟨id, _, rfl⟩
  · split_ifs
    · exact ⟨id, _, rfl⟩
    · exact ⟨_, _, rfl⟩

end

/-! ### SET KEEP-ON (R172) -/

section
variable {s : State} {r : Request} {x : SwDom} {on : Bool}

/-- SET KEEP-ON of a switched domain: the value sets out for the demand resolver. -/
theorem setKeepOnBody_sets (hx : (r.byte 2).toNat = x.val + 1) (hon : (r.byte 3).toNat = on.toNat) :
    setKeepOnBody r s =
      (s.onLinks fun l => { l with keepOnToDr := l.keepOnToDr ++ [(x, on)] },
        { status := .ok, b2 := r.byte 2, b3 := r.byte 3, b4 := BitVec.ofNat 8 s.dr.need[x.domain].toNat }) := by
  have hbyte : boolByte on = r.byte 3 := by rw [boolByte_eq, ← hon, BitVec.ofNat_toNat, BitVec.setWidth_eq]
  simp only [setKeepOnBody, swDomOf_eq_some.2 hx, switchOf_eq_some.2 hon, hbyte, boolByte_eq s.dr.need[x.domain]]

theorem setKeepOnBody_refused (h : (r.byte 2).toNat = 0 ∨ 4 ≤ (r.byte 2).toNat ∨ 2 ≤ (r.byte 3).toNat) :
    setKeepOnBody r s = (s, .refused .badArgument) := by
  rw [← or_assoc, ← swDomOf_eq_none, ← switchOf_eq_none] at h
  rcases h with hx | hon
  · simp only [setKeepOnBody, hx]
  · unfold setKeepOnBody
    split
    · rename_i hset; cases hon.symm.trans hset
    · rfl

theorem setKeepOnBody_onLinks (r : Request) (s : State) : ∃ f a, setKeepOnBody r s = (s.onLinks f, a) := by
  unfold setKeepOnBody
  split
  · exact ⟨_, _, rfl⟩
  · exact ⟨id, _, rfl⟩

end

/-- Settles O31: each body's checks in their order, each refusal unchanged but for its answer, and the values that pass
on their way to the engine or the demand resolver. -/
theorem settingsAreHandedOver : Obligations.SettingsAreHandedOver := by
  unfold Obligations.SettingsAreHandedOver
  refine ⟨fun s r hs => ?timing, fun s r hs => ?domain, fun s r hs => ?keepOn⟩
  case timing =>
    obtain ⟨hct, hblocks⟩ := served_onLinks_frame hs (accepts := (· == codeSetModuleTiming)) rfl
      (body := controlOnly setModuleTimingBody) (setModuleTimingBody_onLinks r (s.takeRequest 0))
    refine ⟨_, rfl, hct, hblocks, ?_⟩
    intro ack fits
    refine ⟨fun hbad => served_refused hs rfl (setModuleTimingBody_badOperand hbad), fun m hm => ?_⟩
    have hbody := setModuleTimingBody_eq (s := s.takeRequest 0) hm
    have hlater (hpresent : s.ct.dir[m].present = true) := hbody.trans (if_neg (Bool.ne_false_iff.2 hpresent))
    exact ⟨fun habsent => served_refused hs rfl (hbody.trans (if_pos habsent)),
      fun hpresent hunfit => served_refused hs rfl ((hlater hpresent).trans (if_pos hunfit)),
      fun hpresent hfits => served_postEngine hs rfl ((hlater hpresent).trans (if_neg (not_not.2 hfits)))⟩
  case domain =>
    obtain ⟨hct, hblocks⟩ := served_onLinks_frame hs (accepts := (· == codeSetDomain)) rfl
      (body := controlOnly setDomainBody) (setDomainBody_onLinks r (s.takeRequest 0))
    refine ⟨_, rfl, hct, hblocks, ?_⟩
    intro ramp off fits
    refine ⟨fun hbad => served_refused hs rfl (setDomainBody_refused hbad), fun x hx hfits => ?_⟩
    exact served_postEngine hs rfl
      ((setDomainBody_eq (swDomOf_eq_some.2 hx)).trans (if_neg (not_not.2 hfits)))
  case keepOn =>
    obtain ⟨hct, hblocks⟩ := served_onLinks_frame hs (accepts := (· == codeSetKeepOn)) rfl
      (body := controlOnly setKeepOnBody) (setKeepOnBody_onLinks r (s.takeRequest 0))
    exact ⟨_, rfl, hct, hblocks, fun hbad => served_refused hs rfl (setKeepOnBody_refused hbad),
      fun x on hx hon => served_onLinks hs rfl (body := controlOnly setKeepOnBody) (setKeepOnBody_sets hx hon)⟩

end Sys2Proof.Machine


namespace Sys2Proof.Machine

/-! ### SET QUOTA (R173) -/

section
variable {s : State} {r : Request} {p : Port}

theorem setQuotaBody_refused (h : 4 ≤ (r.byte 2).toNat ∨ 128 < (r.byte 3).toNat) :
    setQuotaBody r s = (s, .refused .badArgument) := by
  cases hp : portOf (r.byte 2) with
  | none => simp only [setQuotaBody, hp]
  | some p =>
    have hinRange : ¬4 ≤ (r.byte 2).toNat := by rw [← portOf_eq_none, hp]; nofun
    simp only [setQuotaBody, hp, if_pos (h.resolve_left hinRange)]

/-- A quota that fits is written to the port's items, and to nothing else. -/
theorem setQuotaBody_sets (hp : (r.byte 2).toNat = p.val) (hq : (r.byte 3).toNat ≤ 128) :
    setQuotaBody r s =
      (s.onCt fun ct => ct.onPort p fun q => { q with quota := (r.byte 3).toNat },
        { status := .ok, b2 := r.byte 2, b3 := r.byte 3, b4 := byteOf s.ct.ports[p].count }) := by
  simp only [setQuotaBody, portOf_eq_some.2 hp, if_neg (not_lt.2 hq)]

theorem setQuotaBody_onCt (r : Request) (s : State) : ∃ f a, setQuotaBody r s = (s.onCt f, a) := by
  unfold setQuotaBody
  split
  · exact ⟨id, _, rfl⟩
  · split_ifs
    · exact ⟨id, _, rfl⟩
    · exact ⟨_, _, rfl⟩

end

/-- Settles O28: a refused request changes nothing, and one that passes writes one port's quota. -/
theorem setQuotaSetsTheQuota : Obligations.SetQuotaSetsTheQuota := by
  unfold Obligations.SetQuotaSetsTheQuota
  intro s r hs
  obtain ⟨hlinks, hblocks⟩ := served_onCt_frame hs (accepts := (· == codeSetQuota)) rfl
    (body := controlOnly setQuotaBody) (setQuotaBody_onCt r (s.takeRequest 0))
  refine ⟨_, rfl, hlinks, hblocks, fun hbad => ?_, fun p hp hq => ?_⟩
  · obtain ⟨hct, -, -, hans⟩ := served_unchanged hs (accepts := (· == codeSetQuota)) rfl
      (body := controlOnly setQuotaBody) (setQuotaBody_refused hbad)
    exact ⟨hct, hans⟩
  · obtain ⟨hct, hans⟩ := served_onCt hs (accepts := (· == codeSetQuota)) rfl (body := controlOnly setQuotaBody)
      (setQuotaBody_sets hp hq)
    rw [hct, Ct.onPort_ports]
    exact ⟨modifyAt_get_self .., fun q hne => modifyAt_get_ne _ _ hne, rfl, hans⟩

end Sys2Proof.Machine


namespace Sys2Proof.Machine

/-! ### The answer that a request leaves in the holder (R156) -/

/-- A request command that is served leaves its body's answer in the port's holder. -/
theorem exec_holder {s u : State} {p : Port} {r : Request} {code : Byte} {c : Instr} {a : Answer}
    {body : Port → Request → State → State × Answer} (hserve : exec c s = .next (s.serve (· == code) body))
    (hs : Serving s p r code) (hb : body p r (s.takeRequest p) = (u, a)) :
    ∃ t echo, exec c s = .next t ∧ t.ports[p].holder = a.bytes echo := by
  refine ⟨_, u.echoFor p r.sequence, hserve, ?_⟩
  rw [serve_of_serving hs (accepts := (· == code)) (beq_self_eq_true code) hb, State.writeAnswer_ports,
    modifyAt_get_self]

/-- It leaves the answer's status there. -/
theorem exec_status {s u : State} {p : Port} {r : Request} {code : Byte} {c : Instr} {a : Answer}
    {body : Port → Request → State → State × Answer} (hserve : exec c s = .next (s.serve (· == code) body))
    (hs : Serving s p r code) (hb : body p r (s.takeRequest p) = (u, a)) :
    ∃ t, exec c s = .next t ∧ t.ports[p].holder.status = statusCode a.status := by
  obtain ⟨t, echo, hexec, hholder⟩ := exec_holder hserve hs hb
  exact ⟨t, hexec, congrArg AnswerBytes.status hholder⟩

/-! ### Requests that find nothing (R4, R43, R149, R177) -/

section
variable {s : State} {p : Port} {r : Request}

theorem queryClaimBody_stale (h : s.handle r = none) : queryClaimBody p r s = (s, .refused .stale) := by
  simp only [queryClaimBody, h]

theorem evictBody_stale (h : s.handle r = none) : evictBody r s = (s, .refused .stale) := by
  simp only [evictBody, h]

theorem takeChangeBody_empty (h : s.ct.ports[p].changes = []) : takeChangeBody p r s = (s, { status := .empty }) := by
  simp only [takeChangeBody, h]

/-- With no switched domain in FAULT, CLEAR DOMAIN FAULT of any domain is refused (R149). -/
theorem clearDomainFaultBody_notFaulted (h : (r.byte 2).toNat < 4)
    (hd : ∀ x : SwDom, s.engines.doms[x].state ≠ .fault) :
    clearDomainFaultBody r s = (s, .refused .notFaulted) := by
  by_cases h0 : (r.byte 2).toNat = 0
  · exact clearDomainFaultBody_d0 h0
  · obtain ⟨k, hk⟩ := Nat.exists_eq_succ_of_ne_zero h0
    rw [clearDomainFaultBody_eq (x := ⟨k, by omega⟩) hk, if_pos (hd _)]

end

/-! ### Just after device reset (R177) -/

theorem Ct.reset_resolve (slotByte genByte : Byte) : Ct.reset.resolve slotByte genByte = none := by
  cases h : Ct.reset.resolve slotByte genByte with
  | none => rfl
  | some x =>
    obtain ⟨-, -, hclaim⟩ := Ct.resolve_eq_some.1 h
    cases (Ct.reset_claimAt x.1).symm.trans hclaim

section
variable {s : State} (hct : s.ct = Ct.reset)
include hct

/-- No module is present. -/
theorem absent_of_reset (m : Module) : s.ct.dir[m].present = false := by rw [hct, Ct.reset_dir]; rfl

/-- No handle names a claim. -/
theorem handle_of_reset (r : Request) : s.handle r = none := by rw [State.handle, hct, Ct.reset_resolve]

theorem portItems_of_reset (p : Port) :
    s.ct.ports[p] = { count := 0, quota := 32, changes := [], cursor := none } := by rw [hct]; exact Ct.reset_ports p

/-- QUERY MODULE reports a module that is not present. -/
theorem moduleReport_absent_of_reset (m : Module) : (s.moduleReport m).b2.getLsbD 7 = false := by
  change (moduleByte2 s.ct.dir[m]).getLsbD 7 = false
  rw [hct, Ct.reset_dir]
  decide

end

/-- Settles O4, row by row of the table of R177: no module is present, no handle names a claim, the sets and cursors are
empty, and no domain is in FAULT. -/
theorem answersAfterReset : Obligations.AnswersAfterReset := by
  unfold Obligations.AnswersAfterReset
  intro p r s hct heng _ hrun hnext halerts answersWith
  have serving {code : Byte} (h : r.code = code) : Serving s p r code := ⟨hrun, hnext, h⟩
  have hct' : (s.takeRequest p).ct = Ct.reset := hct
  have hhandle := handle_of_reset hct' r
  have hitems := portItems_of_reset hct' p
  have hdoms (x : SwDom) : s.engines.doms[x].state ≠ .fault := by rw [heng, Engines.reset_doms]; nofun
  refine ⟨fun hm => ?modules, ?queryClaim, ?release, ?change, ?renew, ?evict, ?browseNext, ?takeChange, ?takeAlert,
    ?clearDomainFault⟩
  case modules =>
    obtain ⟨m, hm⟩ : ∃ m, moduleOf (r.byte 2) = some m := ⟨_, dif_pos hm⟩
    have habsent := absent_of_reset hct' m
    refine ⟨fun h1 h3 hcode => ?place, fun hcode => ?restart, fun hcode => ?clearModuleFault, ?timing,
      fun hcode => ?queryModule⟩
    case place =>
      obtain ⟨_, l, -, hl⟩ := exists_place_operands (r := r) (by have := moduleOf_eq_some.1 hm; omega)
      exact exec_status rfl (serving hcode) (placeBody_refused hm hl (by rw [if_pos habsent]))
    case restart => exact exec_status rfl (serving hcode) ((restartBody_eq hm).trans (if_pos habsent))
    case clearModuleFault =>
      exact exec_status rfl (serving hcode) ((clearModuleFaultBody_eq hm).trans (if_pos habsent))
    case timing =>
      rintro rfl hcode
      exact exec_status (body := controlOnly setModuleTimingBody) rfl (serving hcode)
        ((setModuleTimingBody_eq (moduleOf_eq_some.1 hm)).trans (if_pos habsent))
    case queryModule =>
      have hbody : queryModuleBody p r (s.takeRequest p) = (s.takeRequest p, (s.takeRequest p).moduleReport m) := by
        simp only [queryModuleBody, hm]
      obtain ⟨t, echo, hexec, hholder⟩ := exec_holder (c := .queryModule) rfl (serving hcode) hbody
      refine ⟨t, hexec, ?_⟩
      rw [hholder]
      exact ⟨rfl, moduleReport_absent_of_reset hct' m⟩
  case queryClaim => exact fun hcode => exec_status rfl (serving hcode) (queryClaimBody_stale hhandle)
  case release => exact fun hcode => exec_status rfl (serving hcode) ((releaseBody_checksHandle p r _).1 hhandle)
  case change => exact fun hcode => exec_status rfl (serving hcode) ((changeBody_checksHandle p r _).1 hhandle)
  case renew => exact fun hcode => exec_status rfl (serving hcode) ((renewBody_checksHandle p r _).1 hhandle)
  case evict =>
    rintro rfl hcode
    exact exec_status (body := controlOnly evictBody) rfl (serving hcode) (evictBody_stale hhandle)
  case browseNext =>
    intro hcode
    exact exec_status rfl (serving hcode) (browseNextBody_empty fun cur hcur => by rw [hitems] at hcur; cases hcur)
  case takeChange => exact fun hcode => exec_status rfl (serving hcode) (takeChangeBody_empty (by rw [hitems]))
  case takeAlert =>
    exact fun hcode => exec_status rfl (serving hcode) (takeAlertBody_empty ((s.takeRequest_alerts p).trans halerts) r)
  case clearDomainFault =>
    rintro rfl hd hcode
    exact exec_status (body := controlOnly clearDomainFaultBody) rfl (serving hcode)
      (clearDomainFaultBody_notFaulted hd hdoms)

end Sys2Proof.Machine
